-- ==== Sys2Proof/Word.lean ====
section
/-! DEFINITION. The byte, the unit of every layout of the SE-8 (spec/11, R193). -/

namespace Sys2Proof

/-- One byte of a frame, a record, the image or the flash. -/
abbrev Byte := BitVec 8

end Sys2Proof
end

