-- ==== Sys2Proof/Syntax.lean ====
section
/-! DEFINITION. The commands of the SE-8: one constructor per row of spec/opcode_table.json. A command
is one event of the table, with what the event carries. -/

namespace Sys2Proof

/-- The four status inputs (R20). -/
inductive StatusInput where
  | feed | burner | rdy1 | rdy2
  deriving DecidableEq, Repr

/-- A frame that came off the bus: its header fields as the line carries them (R159, R194) and its
payload. The kind code stands beside it where a command does not fix it. -/
structure RxFrame where
  priority : BitVec 3
  source : BitVec 5
  dest : Byte
  payload : List Byte
  deriving DecidableEq, Repr

/-- The commands, one per row of the table. -/
inductive Instr where
  | powerUp
  | resetPin
  | resetPeriodEnd
  /-- The read of the configuration line ends, acknowledged or not, with the bytes read (R182). -/
  | eepromReadDone (ack : Bool) (bytes : List Byte)
  /-- The 24 bits of a sample word (R200). -/
  | sampleWord (word : BitVec 24)
  | sampleFrameAbort
  /-- A raw edge of an input to a level, `true` for active (R20, R21). -/
  | statusInputEdge (input : StatusInput) (level : Bool)
  | filterTimerExpiry (input : StatusInput)
  | minuteBoundary
  | ownExpiry
  | markPulseEnd
  | markFall
  | markRise
  | lowCheckExpiry
  | holdOffExpiry
  | markStuck
  | markNormal
  | timeFrame (frame : RxFrame)
  | summaryFrame (frame : RxFrame)
  | minuteFrame (frame : RxFrame)
  /-- The deadline of the minute at a place of the pending list, the head at 0 (R58, R59). -/
  | minuteDeadlineExpiry (place : Nat)
  | checkRequest (frame : RxFrame)
  | settleExpiry
  | measureExpiry
  | purgeTimerExpiry
  | purgeCeiling
  | driftReset (frame : RxFrame)
  | release (frame : RxFrame)
  | fetch (frame : RxFrame)
  | status (frame : RxFrame)
  | restart (frame : RxFrame)
  | unknownKind (kind : Byte) (frame : RxFrame)
  /-- The bytes of a frame that came off the line broken (R167, R194). -/
  | badFrame (line : List Byte)
  | duplicateStation (kind : Byte) (frame : RxFrame)
  | frameDisregarded (kind : Byte) (frame : RxFrame)
  | mediumIdle
  | contentionLost
  | attemptSuccess
  | attemptFailure
  | minuteFrameStale
  | duplicateTimerExpiry
  | restartTimerExpiry
  | flashReadDone
  /-- A program completes, `true` for success (R141). -/
  | flashProgramDone (ok : Bool)
  | programTimeout
  /-- An erase completes, `true` for success (R142, R144). -/
  | flashEraseDone (ok : Bool)
  | eraseTimeout
  | eraseMinRun
  | eraseHoldoffExpiry
  | resumeQueueRoom
  | fetchNextRead
  | fetchAbandon
  | mediumBusy
  deriving DecidableEq, Repr

end Sys2Proof
end

