-- ==== Sys2Proof/Config.lean ====
section
/-! DEFINITION. The free values: constants without a body, for what the manual leaves open. Each is
applied to the state's draw counter, so that every draw is fresh. -/

namespace Sys2Proof

/-- Which of the events due at one instant is taken first (many rules of spec/: "either order is
possible"). The argument is the draw. DESIGN CHOICE, log 2. -/
opaque Config.pickDue : Nat → Nat

/-- The byte that a program cut off by a reset or a failure leaves at an offset of its target (R133,
R134, R141). Arguments: the draw and the offset. DESIGN CHOICE, log 7. -/
opaque Config.cutByte : Nat → Nat → Byte

/-- The byte that an erase cut off by a reset or a failure leaves at an offset of its block or sector
(R142, R180). Arguments: the draw and the offset. DESIGN CHOICE, log 8. -/
opaque Config.cutErase : Nat → Nat → Byte

/-- What an erase of a header sector that is cut off leaves: 0 the header as it stood, 1 the ERASING
marker gone, anything else no marker programmed (R142). The argument is the draw.
DESIGN CHOICE, log 8. -/
opaque Config.cutHeader : Nat → Nat

end Sys2Proof
end

