-- ==== Sys2Proof/Machine/State.lean ====
section
/-! DEFINITION. Everything the spec gives the station to hold, as plain data, block by block, and the
state right after reset. -/

namespace Sys2Proof.Machine

/-! ## Fixed groups of like things -/

/-- One thing for each of the eight channels; channel 1 first. -/
structure Eight (α : Type) where
  c1 : α
  c2 : α
  c3 : α
  c4 : α
  c5 : α
  c6 : α
  c7 : α
  c8 : α
  deriving DecidableEq, Repr

/-- A channel, `0` for channel 1 and so on. -/
abbrev Chan := Fin 8

/-- The eight channels in rising order. -/
def allChans : List Chan := [0, 1, 2, 3, 4, 5, 6, 7]

def Eight.build {α : Type} (f : Chan → α) : Eight α :=
  ⟨f 0, f 1, f 2, f 3, f 4, f 5, f 6, f 7⟩

def Eight.get {α : Type} (e : Eight α) : Chan → α
  | 0 => e.c1
  | 1 => e.c2
  | 2 => e.c3
  | 3 => e.c4
  | 4 => e.c5
  | 5 => e.c6
  | 6 => e.c7
  | 7 => e.c8

def Eight.set {α : Type} (e : Eight α) (i : Chan) (x : α) : Eight α :=
  Eight.build fun j => if j = i then x else e.get j

def Eight.fill {α : Type} (x : α) : Eight α := Eight.build fun _ => x

/-- One thing for each of the four year areas; area 0 first. -/
structure Areas (α : Type) where
  a0 : α
  a1 : α
  a2 : α
  a3 : α
  deriving DecidableEq, Repr

/-- A year area of the archive flash (R132). -/
abbrev Area := Fin 4

def allAreas : List Area := [0, 1, 2, 3]

def Areas.build {α : Type} (f : Area → α) : Areas α := ⟨f 0, f 1, f 2, f 3⟩

def Areas.get {α : Type} (e : Areas α) : Area → α
  | 0 => e.a0
  | 1 => e.a1
  | 2 => e.a2
  | 3 => e.a3

def Areas.set {α : Type} (e : Areas α) (i : Area) (x : α) : Areas α :=
  Areas.build fun j => if j = i then x else e.get j

/-- One thing for each of the four status inputs. -/
structure Inputs (α : Type) where
  feed : α
  burner : α
  rdy1 : α
  rdy2 : α
  deriving DecidableEq, Repr

def Inputs.get {α : Type} (e : Inputs α) : StatusInput → α
  | .feed => e.feed
  | .burner => e.burner
  | .rdy1 => e.rdy1
  | .rdy2 => e.rdy2

def Inputs.set {α : Type} (e : Inputs α) (i : StatusInput) (x : α) : Inputs α :=
  match i with
  | .feed => { e with feed := x }
  | .burner => { e with burner := x }
  | .rdy1 => { e with rdy1 := x }
  | .rdy2 => { e with rdy2 := x }

/-- A gas path that a check can run on (R111). -/
inductive Path where
  | one | two
  deriving DecidableEq, Repr

/-! ## Stamps and codes -/

/-- An interval stamp (spec/00). -/
structure IStamp where
  year : Nat
  day : Nat
  index : Nat
  deriving DecidableEq, Repr

/-- A minute stamp: an interval stamp with its slot (spec/00). -/
structure MStamp where
  interval : IStamp
  slot : Nat
  deriving DecidableEq, Repr

/-- A timer: stopped, or the milliseconds that remain. -/
abbrev Timer := Option Nat

inductive Kind where
  | pollutant | oxygen | moisture | temperature | pressure | flow
  deriving DecidableEq, Repr

/-- The plant state of a minute (R24, R26). -/
inductive PlantState where
  | operating | transition | standstill | unknown
  deriving DecidableEq, Repr

/-- The plant class of an interval (R28). -/
inductive PlantClass where
  | operating | transition | standstill
  deriving DecidableEq, Repr

/-- Why a minute is invalid (R16, R63), in the order of precedence. -/
inductive Reason where
  | drift | check | fault | maint | few | refLost
  deriving DecidableEq, Repr

/-- A minute status: VALID, or invalid for a reason (R18, R63). -/
inductive MinuteStatus where
  | valid
  | invalid (reason : Reason)
  deriving DecidableEq, Repr

/-- The class of a channel in an interval (R94, R95). -/
inductive IntervalClass where
  | below | band | above | notAssessed | valid
  | invalid (reason : Reason)
  deriving DecidableEq, Repr

inductive DayClass where
  | noOperation | valid | invalid
  deriving DecidableEq, Repr

inductive CloseKind where
  | expiry | silent | edge | realign
  deriving DecidableEq, Repr

/-- The outcome of a reference (R62). -/
inductive RefOutcome where
  | none | fresh | held | lost
  deriving DecidableEq, Repr

inductive StationState where
  | loading | mounting | unsynced | resuming | aligning | recording | halted
  deriving DecidableEq, Repr

inductive HaltReason where
  | config | calendarBehind
  deriving DecidableEq, Repr

inductive MarkSync where
  | stopped | locked | realigning
  deriving DecidableEq, Repr

inductive AreaState where
  | free | opened | closed | released | erasing | foreign
  deriving DecidableEq, Repr

inductive ArchiveCondition where
  | notMounted | ready | blocked | fault
  deriving DecidableEq, Repr

inductive CheckKind where
  | zero | span
  deriving DecidableEq, Repr

inductive Phase where
  | idle | settle | measure | purge
  deriving DecidableEq, Repr

/-- The kinds of record a FETCH names (R148), each a section of an area (R132). -/
inductive RecordKind where
  | interval | day | event | summary
  deriving DecidableEq, Repr

/-- What a reading of a slot shows (R133). -/
inductive SlotState where
  | erased | committed | torn
  deriving DecidableEq, Repr

/-- The outcomes of a REPLY (R171). -/
inductive Reply where
  | accepted | merged | done | range | busy | full | notRecording | notAvailable | notFound
  | wrongState | badArgument | unknownKind
  deriving DecidableEq, Repr

/-! ## The configuration image (R199, with the ranges of R186 to R188) -/

structure CalSet where
  gain : Nat
  offset : Int
  deriving DecidableEq, Repr

structure SetB where
  cal : CalSet
  effective : IStamp
  deriving DecidableEq, Repr

/-- Where a reference comes from (R54). -/
inductive RefSource where
  | none
  | local_ (channel : Chan)
  | subscription (entry : Nat)
  deriving DecidableEq, Repr

structure ValveEntry where
  code : Nat
  kind : CheckKind
  reference : Int
  deriving DecidableEq, Repr

structure ChannelCfg where
  enable : Bool
  publish : Bool
  kind : Kind
  path : Nat
  expected : Nat
  sMin : Nat
  setA : CalSet
  setB : Option SetB
  basisT : Bool
  basisP : Bool
  basisDry : Bool
  basisO2 : Bool
  o2Wet : Bool
  o2Ref : Nat
  srcT : RefSource
  srcP : RefSource
  srcH : RefSource
  srcO2 : RefSource
  limA : Nat
  limB : Nat
  limD : Nat
  cip : Nat
  driftK : Nat
  driftH : Nat
  driftHard : Nat
  valves : List ValveEntry
  deriving DecidableEq, Repr

structure ScheduleEntry where
  code : Nat
  index : Nat
  period : Nat
  phase : Nat
  deriving DecidableEq, Repr

/-- A PATH section; times in seconds (R112). -/
structure PathCfg where
  settle : Nat
  measure : Nat
  purge : Nat
  ceiling : Nat
  schedule : List ScheduleEntry
  deriving DecidableEq, Repr

structure StationCfg where
  number : Nat
  bitRate : Nat
  strayK : Nat
  waitW : Nat
  holdH : Nat
  filterSteps : Inputs Nat
  pOp : Nat
  quota : Nat
  nInv : Nat
  yInv : Nat
  share : Nat
  mask : Byte
  countUnrecorded : Bool
  o2Cap : Nat
  minRun : Nat
  holdoff : Nat
  deriving DecidableEq, Repr

/-- A value entry's pair: a peer station and a channel of it (R52). -/
structure SubPair where
  station : Nat
  channel : Nat
  deriving DecidableEq, Repr

structure Image where
  station : StationCfg
  subs : List SubPair
  plantSource : Option Nat
  chans : Eight ChannelCfg
  path1 : PathCfg
  path2 : PathCfg
  deriving DecidableEq, Repr

/-! ## Configuration Loader -/

/-- The refusal record as R199 lays it out: five numbers. -/
structure LoadRefusal where
  stage : Nat
  sect : Nat
  number : Nat
  field : Nat
  entry : Nat
  deriving DecidableEq, Repr

/-- Where the loader stands (R182): off during a reset period, a read of the header or of the image
on the configuration line, or ended. -/
inductive LoadPhase where
  | off
  | header
  | image (head : List Byte)
  | done
  deriving DecidableEq, Repr

structure Loader where
  station : StationState
  phase : LoadPhase
  haltReason : Option HaltReason
  refusal : Option LoadRefusal
  image : Option Image
  deriving DecidableEq, Repr

/-! ## Pins and Input Filter -/

structure Pins where
  resetHeld : Bool
  raw : Inputs Bool
  markLow : Bool
  deriving DecidableEq, Repr

structure Filter where
  level : Inputs Bool
  timer : Inputs Timer
  deriving DecidableEq, Repr

/-! ## Sample Port -/

/-- The flags of a minute result: those of R18, HELD (R63), HCLAMP and O2CAP (R83). -/
structure MFlags where
  overRange : Bool
  sat : Bool
  clampLow : Bool
  lowRate : Bool
  part : Bool
  held : Bool
  hClamp : Bool
  o2Cap : Bool
  deriving DecidableEq, Repr

/-- A minute accumulator (R6); the minute start stands once in `OpenMinute`. -/
structure MinuteAcc where
  n : Nat
  sum : Nat
  maint : Nat
  fault : Nat
  excluded : Nat
  words : Nat
  overRange : Bool
  sat : Bool
  checked : Bool
  deriving DecidableEq, Repr

structure OpenMinute where
  slot : Nat
  start : Nat
  deriving DecidableEq, Repr

structure SamplePort where
  setB : Eight Bool
  openMin : Option OpenMinute
  acc : Eight MinuteAcc
  deriving DecidableEq, Repr

/-- A minute result (R18, amended by R63 and R83): `value` the calibrated value m, `norm` the
normalized value of a POLLUTANT channel. -/
structure MinuteResult where
  n : Nat
  value : Option Int
  norm : Option Nat
  status : MinuteStatus
  flags : MFlags
  maint : Nat
  fault : Nat
  excluded : Nat
  deriving DecidableEq, Repr

/-! ## Mark Unit -/

structure MarkUnit where
  clock : Option Nat
  boundary : Nat
  calendar : Option IStamp
  sync : MarkSync
  strays : Nat
  holdOff : Timer
  stuck : Bool
  lowCheck : Timer
  stuckTimer : Timer
  recovery : Timer
  pulse : Timer
  lastOffset : Option Int
  refusedTimes : Nat
  disagreements : Nat
  disagreeMark : Bool
  deriving DecidableEq, Repr

/-- The close notice (R31), less its two stamps, which the blocks take beside it. -/
structure Notice where
  kind : CloseKind
  offset : Int
  length : Nat
  short : Bool
  realigned : Bool
  stuck : Bool
  deriving DecidableEq, Repr

/-! ## Reference Exchange -/

/-- The newest entry received for a pair (R52). -/
structure Latest where
  stamp : MStamp
  value : Option Int
  status : MinuteStatus
  deriving DecidableEq, Repr

structure LastValid where
  stamp : MStamp
  value : Int
  deriving DecidableEq, Repr

structure ValueEntry where
  latest : Option Latest
  lastValid : Option LastValid
  age : Nat
  outcome : RefOutcome
  late : Nat
  lost : Nat
  eventMark : Bool
  deriving DecidableEq, Repr

structure PlantLatest where
  stamp : MStamp
  state : PlantState
  deriving DecidableEq, Repr

/-- The plant-state entry (R53). -/
structure PlantEntry where
  latest : Option PlantLatest
  lastValid : Option PlantLatest
  age : Nat
  outcome : RefOutcome
  late : Nat
  lost : Nat
  deriving DecidableEq, Repr

/-- A local reference record (R55). -/
structure LocalRecord where
  lastValid : Option LastValid
  age : Nat
  outcome : RefOutcome
  lost : Nat
  eventMark : Bool
  deriving DecidableEq, Repr

structure Capture where
  value : Option Int
  status : MinuteStatus
  deriving DecidableEq, Repr

/-- A pending minute (R58); `caps` runs along the value entries. -/
structure PendingMinute where
  stamp : MStamp
  results : Eight (Option MinuteResult)
  localState : Option PlantState
  deadline : Timer
  deadlineMark : Bool
  caps : List (Option Capture)
  plantCap : Option PlantState
  last : Bool
  deriving DecidableEq, Repr

structure LastMinute where
  status : MinuteStatus
  flags : MFlags
  deriving DecidableEq, Repr

structure Exchange where
  entries : List ValueEntry
  plant : PlantEntry
  locals : Eight LocalRecord
  minutes : List PendingMinute
  history : List MStamp
  lastMinute : Eight (Option LastMinute)
  refLost : Bool
  deriving DecidableEq, Repr

/-! ## Interval Engine -/

structure IntervalEntry where
  stamp : IStamp
  switched : Eight Bool
  notice : Option Notice
  deriving DecidableEq, Repr

/-- The reason tally of R88. -/
structure Tally where
  drift : Nat
  check : Nat
  fault : Nat
  maint : Nat
  few : Nat
  refLost : Nat
  deriving DecidableEq, Repr

/-- The channel part of the interval accumulators (R88). -/
structure ChanAcc where
  considered : Nat
  v : Nat
  vSum : Int
  anyValid : Nat
  anySum : Int
  tally : Tally
  flags : MFlags
  maint : Nat
  fault : Nat
  excluded : Nat
  deriving DecidableEq, Repr

structure IntervalAcc where
  minutes : Nat
  operating : Nat
  unknown : Nat
  transition : Nat
  standstill : Nat
  chans : Eight ChanAcc
  deriving DecidableEq, Repr

structure Day where
  year : Nat
  day : Nat
  deriving DecidableEq, Repr

structure DayChan where
  operating : Nat
  valid : Nat
  sumV : Nat
  invalid : Nat
  deriving DecidableEq, Repr

/-- The day accumulators (R100). -/
structure DayAcc where
  recorded : Nat
  operating : Nat
  transition : Nat
  standstill : Nat
  chans : Eight DayChan
  deriving DecidableEq, Repr

structure YearChan where
  operating : Nat
  valid : Nat
  invalid : Nat
  band : Nat
  above : Nat
  operatedDays : Nat
  validDays : Nat
  invalidDays : Nat
  dayExceedances : Nat
  sumD : Nat
  maxV : Option Nat
  maxD : Option Nat
  deriving DecidableEq, Repr

/-- The year counters (R106). -/
structure YearCounters where
  chans : Eight YearChan
  transition : Nat
  standstill : Nat
  unrecorded : Nat
  deriving DecidableEq, Repr

structure Engine where
  intervals : List IntervalEntry
  acc : IntervalAcc
  held : Option Day
  day : DayAcc
  year : YearCounters
  exceedance : Bool
  dayExceedance : Bool
  deriving DecidableEq, Repr

/-! ## Check Sequencer -/

structure CheckPair where
  path : Path
  valve : Nat
  deriving DecidableEq, Repr

/-- The phase of the check in progress with its timers (R116, R117, R124). -/
inductive Progress where
  | settle (left : Nat)
  | measure (left : Nat)
  | purge (purgeLeft : Timer) (ceilingLeft : Nat) (served : Bool)
  deriving DecidableEq, Repr

structure Check where
  pair : CheckPair
  progress : Progress
  deriving DecidableEq, Repr

structure CheckAcc where
  n : Nat
  sum : Nat
  maint : Nat
  fault : Nat
  overRange : Bool
  deriving DecidableEq, Repr

structure DriftRecord where
  spos : Nat
  sneg : Nat
  lock : Bool
  deriving DecidableEq, Repr

structure DriftPair where
  zero : DriftRecord
  span : DriftRecord
  deriving DecidableEq, Repr

structure CheckUnit where
  current : Option Check
  queue : List CheckPair
  acc : Eight CheckAcc
  drift : Eight DriftPair
  deriving DecidableEq, Repr

/-! ## Archive Controller -/

structure AreaEntry where
  state : AreaState
  year : Option Nat
  station : Option Nat
  releaseMark : Bool
  deriving DecidableEq, Repr

/-- A job of the record queue (R136); record jobs carry the bytes of their slot. -/
inductive Job where
  | interval (stamp : IStamp) (data : List Byte)
  | day (day : Day) (data : List Byte)
  | summary (year : Nat) (slot : Nat) (data : List Byte)
  | event (data : List Byte)
  | yearEnd (closing : Nat) (opening : Nat)
  | released (area : Area)
  deriving DecidableEq, Repr

/-- Who asked for a read (R138); `orphan` is the read of a fetch that was abandoned (R151). -/
inductive Reader where
  | fetch | orphan | mount | resume | job
  deriving DecidableEq, Repr

structure ReadReq where
  who : Reader
  addr : Nat
  len : Nat
  deriving DecidableEq, Repr

/-- What a program in flight is for. -/
inductive ProgramFor where
  | record
  | closeYear (area : Area) (opening : Nat)
  | release (area : Area)
  | opening (area : Area) (year : Nat)
  | erasing (area : Area)
  | mountClose (area : Area)
  deriving DecidableEq, Repr

structure Program where
  purpose : ProgramFor
  addr : Nat
  data : List Byte
  left : Nat
  deriving DecidableEq, Repr

/-- A block or sector erase with its run timer and limit clock (R142, R143). -/
structure EraseRun where
  area : Area
  step : Nat
  run : Nat
  limit : Nat
  deriving DecidableEq, Repr

/-- The operation in flight on the flash line (R138, R143). -/
inductive Activity where
  | idle
  | reading (req : ReadReq)
  | programming (prog : Program)
  | erasing (er : EraseRun)
  | suspendedRead (er : EraseRun) (req : ReadReq)
  | suspendedHold (er : EraseRun) (left : Nat)
  deriving DecidableEq, Repr

structure EraseEntry where
  area : Area
  step : Nat
  deriving DecidableEq, Repr

/-- The active fetch (R148), with the request it answers. -/
structure FetchState where
  requester : Nat
  request : List Byte
  area : Area
  year : Nat
  kind : RecordKind
  next : Nat
  left : Nat
  sent : Nat
  timer : Nat
  reading : Bool
  deriving DecidableEq, Repr

/-- Where mount stands (R152). -/
inductive Mount where
  | off
  | headers (got : List AreaEntry) (steps : List EraseEntry)
  | closing (todo : List Area)
  | events (lo : Nat) (hi : Nat)
  | days (slot : Nat)
  deriving DecidableEq, Repr

/-- Where resumption stands (R153 to R155): reading the interval section downward or upward, reading
the 48 slots of a day, or waiting for the record queue. `latest` tells whether the downward reading
found a record. -/
inductive Resume where
  | off
  | latest (slot : Nat)
  | earliest (slot : Nat)
  | day (day : Day) (index : Nat)
  | submit (jobs : List Job) (next : Option Day)
  deriving DecidableEq, Repr

structure ArchiveCounts where
  dropped : Nat
  yearDropped : Nat
  lost : Nat
  yearLost : Nat
  abandoned : Nat
  deriving DecidableEq, Repr

structure DayRecord where
  day : Nat
  data : List Byte
  deriving DecidableEq, Repr

structure Opening where
  area : Area
  year : Nat
  deriving DecidableEq, Repr

structure Archive where
  condition : ArchiveCondition
  table : Option (Areas AreaEntry)
  wanted : Option Area
  queue : List Job
  jobFound : Bool
  service : Bool
  erases : List EraseEntry
  activity : Activity
  reads : List ReadReq
  opening : Option Opening
  fetch : Option FetchState
  nextEvent : Nat
  counts : ArchiveCounts
  mount : Mount
  lastDay : Option DayRecord
  resume : Resume
  deriving DecidableEq, Repr

/-! ## Bus Controller -/

/-- A frame of the transmit queue (R163); its source is the station's own number. -/
structure TxFrame where
  priority : Nat
  dest : Nat
  kind : Nat
  payload : List Byte
  age : Nat
  failed : Nat
  inFlight : Bool
  restartReply : Bool
  deriving DecidableEq, Repr

structure Joined where
  number : Nat
  bitRate : Nat
  deriving DecidableEq, Repr

structure BusCounts where
  dropped : Nat
  stale : Nat
  failed : Nat
  bad : Nat
  duplicate : Nat
  deriving DecidableEq, Repr

structure Bus where
  joined : Option Joined
  mediumIdle : Bool
  queue : List TxFrame
  failures : Nat
  fault : Bool
  duplicate : Timer
  restart : Timer
  counts : BusCounts
  deriving DecidableEq, Repr

/-! ## What a completed interval and a closed day say of a channel (R96, R105); not held by State -/

structure ChanResult where
  kind : Kind
  cls : IntervalClass
  average : Option Int
  validated : Option Nat
  v : Nat
  flags : MFlags
  switched : Bool
  maint : Nat
  fault : Nat
  excluded : Nat
  deriving DecidableEq, Repr

structure DayResult where
  cls : DayClass
  average : Option Nat
  exceeded : Bool
  deriving DecidableEq, Repr

/-- What a stored interval record tells the day and the year (R99). -/
structure StoredInterval where
  plantClass : PlantClass
  chans : Eight (Option (IntervalClass × Nat))
  deriving DecidableEq, Repr

/-! ## The station -/

structure State where
  pending : List Instr
  draws : Nat
  pins : Pins
  loader : Loader
  filter : Filter
  port : SamplePort
  mark : MarkUnit
  exch : Exchange
  eng : Engine
  chk : CheckUnit
  arch : Archive
  bus : Bus
  flash : List Host.Cell
  deriving DecidableEq, Repr

/-- Why the model stops with a fault. -/
inductive Fault where
  /-- Raised at the completion of a flash operation whose address lies outside the 8 MiB of R132. Safe:
  the spec gives no such address, and no run from reset reaches one. -/
  | flashAddress
  deriving DecidableEq, Repr

/-- Why the model gives a command no meaning. -/
inductive Refusal where
  /-- Raised by an arm of exec that has no meaning yet. Safe: it stops. No arm uses it. -/
  | notModelled (mnemonic : String)
  deriving DecidableEq, Repr

/-! ## Reset values, block by block -/

def MFlags.none : MFlags := ⟨false, false, false, false, false, false, false, false⟩

def MinuteAcc.cleared : MinuteAcc := ⟨0, 0, 0, 0, 0, 0, false, false, false⟩

/-- R19. -/
def SamplePort.reset : SamplePort :=
  { setB := Eight.fill false, openMin := none, acc := Eight.fill MinuteAcc.cleared }

/-- R22. -/
def Filter.reset : Filter :=
  { level := ⟨false, false, false, false⟩, timer := ⟨none, none, none, none⟩ }

/-- R50. -/
def MarkUnit.reset : MarkUnit :=
  { clock := none, boundary := 1, calendar := none, sync := .stopped, strays := 0, holdOff := none,
    stuck := false, lowCheck := none, stuckTimer := none, recovery := none, pulse := none,
    lastOffset := none, refusedTimes := 0, disagreements := 0, disagreeMark := false }

/-- R52. -/
def ValueEntry.reset : ValueEntry := ⟨none, none, 0, .none, 0, 0, false⟩

/-- R53. -/
def PlantEntry.reset : PlantEntry := ⟨none, none, 0, .none, 0, 0⟩

/-- R55. -/
def LocalRecord.reset : LocalRecord := ⟨none, 0, .none, 0, false⟩

/-- R68. -/
def Exchange.reset : Exchange :=
  { entries := [], plant := PlantEntry.reset, locals := Eight.fill LocalRecord.reset,
    minutes := [], history := [], lastMinute := Eight.fill none, refLost := false }

def ChanAcc.cleared : ChanAcc := ⟨0, 0, 0, 0, 0, ⟨0, 0, 0, 0, 0, 0⟩, MFlags.none, 0, 0, 0⟩

/-- R88. -/
def IntervalAcc.cleared : IntervalAcc := ⟨0, 0, 0, 0, 0, Eight.fill ChanAcc.cleared⟩

/-- R100. -/
def DayAcc.cleared : DayAcc := ⟨0, 0, 0, 0, Eight.fill ⟨0, 0, 0, 0⟩⟩

def YearChan.cleared : YearChan := ⟨0, 0, 0, 0, 0, 0, 0, 0, 0, 0, none, none⟩

/-- R106. -/
def YearCounters.cleared : YearCounters := ⟨Eight.fill YearChan.cleared, 0, 0, 0⟩

/-- R110. -/
def Engine.reset : Engine :=
  { intervals := [], acc := IntervalAcc.cleared, held := none, day := DayAcc.cleared,
    year := YearCounters.cleared, exceedance := false, dayExceedance := false }

def CheckAcc.cleared : CheckAcc := ⟨0, 0, 0, 0, false⟩

/-- R121. -/
def DriftRecord.reset : DriftRecord := ⟨0, 0, false⟩

def DriftPair.reset : DriftPair := ⟨DriftRecord.reset, DriftRecord.reset⟩

/-- R131. -/
def CheckUnit.reset : CheckUnit :=
  { current := none, queue := [], acc := Eight.fill CheckAcc.cleared,
    drift := Eight.fill DriftPair.reset }

/-- R156. -/
def Archive.reset : Archive :=
  { condition := .notMounted, table := none, wanted := none, queue := [], jobFound := false,
    service := false, erases := [], activity := .idle, reads := [], opening := none, fetch := none,
    nextEvent := 0, counts := ⟨0, 0, 0, 0, 0⟩, mount := .off, lastDay := none, resume := .off }

/-- R178. -/
def Bus.reset : Bus :=
  { joined := none, mediumIdle := false, queue := [], failures := 0, fault := false,
    duplicate := none, restart := none, counts := ⟨0, 0, 0, 0, 0⟩ }

/-- R181; the loader is off while the reset period is held (R179). -/
def Loader.reset : Loader :=
  { station := .loading, phase := .off, haltReason := none, refusal := none, image := none }

/-- The station right after reset, the reset period still held (R179, R180). The levels of the pins
and the contents of the flash are no state of the part: DESIGN CHOICE, log 6. -/
def State.reset : State :=
  { pending := [], draws := 0,
    pins := { resetHeld := true, raw := ⟨false, false, false, false⟩, markLow := false },
    loader := Loader.reset, filter := Filter.reset, port := SamplePort.reset,
    mark := MarkUnit.reset, exch := Exchange.reset, eng := Engine.reset, chk := CheckUnit.reset,
    arch := Archive.reset, bus := Bus.reset, flash := [] }

end Sys2Proof.Machine
end

