-- ==== Sys2Proof/Machine/Ops.lean ====
section
/-! DEFINITION. Shared operations: rounded division, saturating counts, stamps and the calendar, the
flash as memory, and the fields other blocks read. -/

namespace Sys2Proof.Machine

/-! ## Arithmetic -/

/-- The rounded division of spec/00: half up. -/
def roundDiv (x y : Nat) : Nat := (2 * x + y) / (2 * y)

/-- ceil(n × p / 100), the thresholds of R28 and R91. -/
def ceilPercent (n p : Nat) : Nat := (n * p + 99) / 100

/-- A count raised by one that stays at its limit. -/
def satInc (limit n : Nat) : Nat := if n < limit then n + 1 else limit

/-- `x` brought into `lo..hi`. -/
def clampInt (lo hi x : Int) : Int := if x < lo then lo else if hi < x then hi else x

/-- The element of a list at a place, changed; the list as it is when there is none. -/
def updateAt {α : Type} (f : α → α) : Nat → List α → List α
  | _, [] => []
  | 0, x :: xs => f x :: xs
  | n + 1, x :: xs => x :: updateAt f n xs

/-- The elements of a list with their places, from a first place on. -/
def withPlaces {α : Type} : Nat → List α → List (Nat × α)
  | _, [] => []
  | n, x :: xs => (n, x) :: withPlaces (n + 1) xs

/-! ## Channels -/

/-- Channel `c` as the spec numbers it. -/
def chanNumber (c : Chan) : Nat := c.val + 1

/-- The channel of a number 1..8. -/
def chanOf (n : Nat) : Option Chan :=
  if h : 1 ≤ n ∧ n ≤ 8 then some ⟨n - 1, by omega⟩ else none

def Eight.map {α β : Type} (f : α → β) (e : Eight α) : Eight β := Eight.build fun i => f (e.get i)

def Eight.toList {α : Type} (e : Eight α) : List α := allChans.map e.get

def Eight.modify {α : Type} (e : Eight α) (i : Chan) (f : α → α) : Eight α := e.set i (f (e.get i))

def Eight.any {α : Type} (p : α → Bool) (e : Eight α) : Bool := e.toList.any p

def Areas.toList {α : Type} (e : Areas α) : List α := allAreas.map e.get

def Areas.modify {α : Type} (e : Areas α) (i : Area) (f : α → α) : Areas α := e.set i (f (e.get i))

/-- The area after an area in ring order (R132). -/
def nextArea (a : Area) : Area := a + 1

/-! ## Stamps and the calendar -/

/-- R41: a leap year's number is divisible by 4. -/
def lastDayOf (year : Nat) : Nat := if year % 4 = 0 then 366 else 365

/-- Field by field from the left (spec/00). -/
def IStamp.before (a b : IStamp) : Bool :=
  decide (a.year < b.year) ||
    (decide (a.year = b.year) &&
      (decide (a.day < b.day) || (decide (a.day = b.day) && decide (a.index < b.index))))

def IStamp.atOrBefore (a b : IStamp) : Bool := !(b.before a)

def MStamp.before (a b : MStamp) : Bool :=
  a.interval.before b.interval || (decide (a.interval = b.interval) && decide (a.slot < b.slot))

/-- The year after a year of the calendar: after 2099 comes 2000 (R41). -/
def nextYear (year : Nat) : Nat := if year = 2099 then 2000 else year + 1

/-- The day after a day under the advance of R41. -/
def Day.next (d : Day) : Day :=
  if d.day < lastDayOf d.year then ⟨d.year, d.day + 1⟩ else ⟨nextYear d.year, 1⟩

/-- The advance of the calendar by one interval (R41). -/
def IStamp.advance (s : IStamp) : IStamp :=
  if s.index < 47 then { s with index := s.index + 1 }
  else
    let d := (Day.mk s.year s.day).next
    ⟨d.year, d.day, 0⟩

def IStamp.toDay (s : IStamp) : Day := ⟨s.year, s.day⟩

/-- A day is before another one. -/
def Day.before (a b : Day) : Bool :=
  decide (a.year < b.year) || (decide (a.year = b.year) && decide (a.day < b.day))

/-- A possible interval stamp: the tests of R42 and R56. -/
def IStamp.valid (s : IStamp) : Bool :=
  decide (2000 ≤ s.year) && decide (s.year ≤ 2099) && decide (1 ≤ s.day) &&
    decide (s.day ≤ lastDayOf s.year) && decide (s.index ≤ 47)

def MStamp.valid (s : MStamp) : Bool := s.interval.valid && decide (s.slot ≤ 29)

/-! ## The archive flash (R132, R197) -/

/-- What a flash byte nothing has programmed reads as: the erased state (R197). -/
def erasedByte : Byte := 0xFF

def flashRead : List Host.Cell → Nat → Byte
  | [], _ => erasedByte
  | c :: cs, a => if c.1 = a then c.2 else flashRead cs a

def flashWrite : List Host.Cell → Nat → Byte → List Host.Cell
  | [], a, b => if b = erasedByte then [] else [(a, b)]
  | c :: cs, a, b =>
    if c.1 < a then c :: flashWrite cs a b
    else if c.1 = a then (if b = erasedByte then cs else (a, b) :: cs)
    else (if b = erasedByte then c :: cs else (a, b) :: c :: cs)

/-- The canonical form: addresses strictly rising, no erased byte listed. -/
def flashWf : List Host.Cell → Bool
  | [] => true
  | [c] => c.2 != erasedByte
  | c :: d :: cs => c.2 != erasedByte && decide (c.1 < d.1) && flashWf (d :: cs)

def flashWriteBytes : List Host.Cell → Nat → List Byte → List Host.Cell
  | m, _, [] => m
  | m, a, b :: bs => flashWriteBytes (flashWrite m a b) (a + 1) bs

def flashReadBytes (m : List Host.Cell) (a len : Nat) : List Byte :=
  (List.range len).map fun i => flashRead m (a + i)

/-- An erase of `len` bytes from `a`. -/
def flashErase (m : List Host.Cell) (a len : Nat) : List Host.Cell :=
  m.filter fun c => decide (c.1 < a) || decide (a + len ≤ c.1)

/-- `len` bytes from `a` take the bytes `g` gives; an erase that was cut off (log 8). -/
def flashScramble (m : List Host.Cell) (a len : Nat) (g : Nat → Byte) : List Host.Cell :=
  (m.filter fun c => decide (c.1 < a)) ++
    ((List.range len).filterMap fun i => if g i = erasedByte then none else some (a + i, g i)) ++
    (m.filter fun c => decide (a + len ≤ c.1))

/-- Every byte of a range is in the erased state. -/
def flashErased (m : List Host.Cell) (a len : Nat) : Bool :=
  m.all fun c => decide (c.1 < a) || decide (a + len ≤ c.1) || c.2 == erasedByte

/-- The bytes of the device (R132). -/
def flashSize : Nat := 0x800000

def areaBase (a : Area) : Nat := a.val * 0x200000

def sectionOffset : RecordKind → Nat
  | .summary => 0x1000
  | .event => 0x2000
  | .day => 0x12000
  | .interval => 0x32000

def sectionSlots : RecordKind → Nat
  | .summary => 9
  | .event => 2048
  | .day => 366
  | .interval => 17568

def slotSize : RecordKind → Nat
  | .summary => 64
  | .event => 32
  | .day => 320
  | .interval => 96

/-- A slot's address (R132). -/
def slotAddr (a : Area) (k : RecordKind) (index : Nat) : Nat :=
  areaBase a + sectionOffset k + index * slotSize k

/-- The interval slot of a stamp within its year (R132). -/
def intervalIndex (s : IStamp) : Nat := (s.day - 1) * 48 + s.index

/-- The state of a slot as its bytes show it (R133, R197). -/
def slotState (bytes : List Byte) : SlotState :=
  if bytes.all (· == erasedByte) then .erased
  else if bytes.getLastD 0xFF = 0 then .committed
  else .torn

/-! ## What the blocks read of each other -/

/-- A configuration with nothing in it; what a station without a loaded image reads (log 13). -/
def blankChannel : ChannelCfg :=
  { enable := false, publish := false, kind := .pollutant, path := 0, expected := 6, sMin := 1,
    setA := ⟨1, 0⟩, setB := none, basisT := false, basisP := false, basisDry := false,
    basisO2 := false, o2Wet := false, o2Ref := 0, srcT := .none, srcP := .none, srcH := .none,
    srcO2 := .none, limA := 0, limB := 0, limD := 0, cip := 0, driftK := 0, driftH := 1,
    driftHard := 1, valves := [] }

def blankPath : PathCfg := ⟨30, 30, 30, 60, []⟩

def blankImage : Image :=
  { station :=
      { number := 0, bitRate := 0, strayK := 3, waitW := 5000, holdH := 2,
        filterSteps := ⟨20, 20, 20, 20⟩, pOp := 50, quota := 66, nInv := 5, yInv := 10,
        share := 300, mask := 0, countUnrecorded := true, o2Cap := 19000, minRun := 4,
        holdoff := 8 },
    subs := [], plantSource := none, chans := Eight.fill blankChannel, path1 := blankPath,
    path2 := blankPath }

/-- The configuration in use: the loaded image (R191). -/
def State.cfg (s : State) : Image := s.loader.image.getD blankImage

def State.recording (s : State) : Bool := s.loader.station == .recording

/-- The clock value: a stopped clock holds 0 (R30). -/
def State.clockValue (s : State) : Nat := s.mark.clock.getD 0

/-- The station number the Bus Controller sends and receives with (R158). -/
def State.number (s : State) : Nat :=
  match s.bus.joined with
  | some j => j.number
  | none => 0

def Image.path (img : Image) : Path → PathCfg
  | .one => img.path1
  | .two => img.path2

/-- The gas path a channel's path number names (R111): none for path 0. -/
def pathOf : Nat → Option Path
  | 1 => some .one
  | 2 => some .two
  | _ => none

def Path.number : Path → Nat
  | .one => 1
  | .two => 2

/-- The enabled channels, in rising order. -/
def Image.enabledChans (img : Image) : List Chan := allChans.filter fun c => (img.chans.get c).enable

/-- An enabled channel on a path (R111). -/
def ChannelCfg.onPath (c : ChannelCfg) (p : Path) : Bool := c.enable && pathOf c.path == some p

def ChannelCfg.isPollutant (c : ChannelCfg) : Bool := c.enable && c.kind == .pollutant

def Progress.phase : Progress → Phase
  | .settle _ => .settle
  | .measure _ => .measure
  | .purge _ _ _ => .purge

/-- The phase of a path (R113). -/
def CheckUnit.phase (u : CheckUnit) (p : Path) : Phase :=
  match u.current with
  | some c => if c.pair.path = p then c.progress.phase else .idle
  | none => .idle

/-- The channel's path is under check: in SETTLE, MEASURE or PURGE (R3, R7). -/
def State.underCheck (s : State) (c : Chan) : Bool :=
  match pathOf (s.cfg.chans.get c).path with
  | some p => s.chk.phase p != .idle
  | none => false

/-- A channel is drift-locked when either of its records is (R121). -/
def DriftPair.locked (d : DriftPair) : Bool := d.zero.lock || d.span.lock

/-- The calibration set in use (R13). -/
def State.calSet (s : State) (c : Chan) : CalSet :=
  let cfg := s.cfg.chans.get c
  match s.port.setB.get c, cfg.setB with
  | true, some b => b.cal
  | _, _ => cfg.setA

/-- The calibration function of R11, without a limit: O + round(G × S / (65,536 × n)). -/
def calibrate (cal : CalSet) (n sum : Nat) : Int :=
  cal.offset + (roundDiv (cal.gain * sum) (65536 * n) : Nat)

/-- VALVE (R113). -/
def State.valve (s : State) : Nat :=
  match s.chk.current with
  | some c => if c.progress.phase = .purge then 0 else c.pair.valve
  | none => 0

/-- MARK is driven low while a pulse runs (R33). -/
def State.markDriven (s : State) : Bool := s.mark.pulse.isSome

/-- The Mark Unit senses the line from the end of loading on (R34, R39). -/
def State.sensing (s : State) : Bool := s.loader.station != .loading

/-- The Input Filter works from the end of a loading without a refusal (R22). -/
def State.filtering (s : State) : Bool := s.loader.image.isSome

/-- The ready input of a path is filtered active (R23). -/
def State.ready (s : State) : Path → Bool
  | .one => s.filter.level.rdy1
  | .two => s.filter.level.rdy2

end Sys2Proof.Machine
end

