-- ==== Sys2Proof/Machine/Flags.lean ====
section
/-! DEFINITION. Flags: the flags of minutes and records, the alert causes, the level of ALERT. -/

namespace Sys2Proof.Machine

/-- A flag as a bit of a number. -/
def flagBit (b : Bool) (k : Nat) : Nat := if b then 2 ^ k else 0

/-- The flags of two minutes together (R90). -/
def MFlags.or (a b : MFlags) : MFlags :=
  { overRange := a.overRange || b.overRange, sat := a.sat || b.sat,
    clampLow := a.clampLow || b.clampLow, lowRate := a.lowRate || b.lowRate,
    part := a.part || b.part, held := a.held || b.held, hClamp := a.hClamp || b.hClamp,
    o2Cap := a.o2Cap || b.o2Cap }

/-- The flags byte of a channel group of the STATUS_REPORT (R196). -/
def MFlags.statusByte (f : MFlags) : Nat :=
  flagBit f.overRange 7 + flagBit f.sat 6 + flagBit f.clampLow 5 + flagBit f.lowRate 4 +
    flagBit f.part 3 + flagBit f.held 2 + flagBit f.hClamp 1 + flagBit f.o2Cap 0

/-- The flags byte of an interval record's entry (R197); PARTIAL stands in the station part. -/
def MFlags.recordByte (f : MFlags) (switched : Bool) : Nat :=
  flagBit f.overRange 7 + flagBit f.sat 6 + flagBit f.clampLow 5 + flagBit f.lowRate 4 +
    flagBit f.held 3 + flagBit f.hClamp 2 + flagBit f.o2Cap 1 + flagBit switched 0

/-- The station flags of R96 as R195 lays them out. -/
def stationFlags (n : Notice) (unknown : Nat) : Nat :=
  flagBit n.short 3 + flagBit n.realigned 2 + flagBit n.stuck 1 + flagBit (decide (1 ≤ unknown)) 0

/-- The Engine is CLOSING while an entry of the interval list holds a notice (R86). -/
def Engine.closing (e : Engine) : Bool := e.intervals.any fun i => i.notice.isSome

/-- The DRIFT cause: a drift record of an enabled channel is locked (R123). -/
def State.driftCause (s : State) : Bool :=
  s.cfg.enabledChans.any fun c => (s.chk.drift.get c).locked

/-- The ARCHIVE cause (R135). -/
def State.archiveCause (s : State) : Bool :=
  s.arch.condition == .blocked || s.arch.condition == .fault

/-- The BUS cause (R174). -/
def State.busCause (s : State) : Bool := s.bus.fault || s.bus.duplicate.isSome

/-- The seven alert causes as bits (R174, R193). The MARK cause stands while the line is STUCK
(R39, R40). -/
def State.causes (s : State) : Nat :=
  flagBit s.eng.exceedance 0 + flagBit s.eng.dayExceedance 1 + flagBit s.driftCause 2 +
    flagBit s.exch.refLost 3 + flagBit s.archiveCause 4 + flagBit s.mark.stuck 5 +
    flagBit s.busCause 6

/-- The level of ALERT (R175): it has no lag of its own, so it is read off the state. -/
def State.alertActive (s : State) : Bool :=
  match s.loader.station with
  | .loading => true
  | .halted => true
  | _ => (BitVec.ofNat 8 s.causes &&& s.cfg.station.mask) != 0

end Sys2Proof.Machine
end

