-- ==== Sys2Proof/Machine/Operands.lean ====
section
/-! DEFINITION. The encodings of spec/11: numbers, values, stamps and codes (R193), frames (R194,
R195), records (R197, R198), written and read. -/

namespace Sys2Proof.Machine

/-! ## Numbers (R193) -/

/-- An unsigned field of a number of bytes, most significant first. -/
def be : Nat → Nat → List Byte
  | 0, _ => []
  | n + 1, x => be n (x / 256) ++ [BitVec.ofNat 8 x]

/-- The number a run of bytes spells, most significant first. -/
def ofBe (bs : List Byte) : Nat := bs.foldl (fun a b => a * 256 + b.toNat) 0

/-- The unsigned field of `n` bytes at an offset. -/
def field (bs : List Byte) (off n : Nat) : Nat := ofBe ((bs.drop off).take n)

/-- The signed field of `n` bytes at an offset, two's complement. -/
def signedField (bs : List Byte) (off n : Nat) : Int :=
  let x := field bs off n
  if x < 2 ^ (8 * n - 1) then (x : Int) else (x : Int) - 2 ^ (8 * n)

/-- A signed field; the most negative number means absent. -/
def signedBe (n : Nat) : Option Int → List Byte
  | none => be n (2 ^ (8 * n - 1))
  | some x => be n (x % (2 ^ (8 * n) : Int)).toNat

/-- A value field: the value plus 40,000; FFFFFFh means absent. -/
def valueBe : Option Int → List Byte
  | none => [0xFF, 0xFF, 0xFF]
  | some v => be 3 (v + 40000).toNat

def valueBeNat (v : Option Nat) : List Byte := valueBe (v.map fun n => (n : Int))

/-- What a value field holds: `none` out of range, `some none` absent. -/
def readValue (x : Nat) : Option (Option Int) :=
  if x = 0xFFFFFF then some none
  else if x < 0x9932C0 then some (some ((x : Int) - 40000))
  else none

/-- A run of bytes brought to a length by zeros (spare bytes are written as zero). -/
def padTo (n : Nat) (bs : List Byte) : List Byte := (bs ++ List.replicate n 0).take n

/-- One byte. -/
def byte (n : Nat) : Byte := BitVec.ofNat 8 n

/-- A record: its bytes padded to its slot, the commit byte 00h last (R197). -/
def committedRecord (size : Nat) (bs : List Byte) : List Byte := padTo (size - 1) bs ++ [0x00]

/-! ## Stamps -/

def istampBe : Option IStamp → List Byte
  | none => [0xFF, 0xFF, 0xFF, 0xFF, 0xFF]
  | some s => be 2 s.year ++ be 2 s.day ++ [byte s.index]

def mstampBe (s : MStamp) : List Byte := istampBe (some s.interval) ++ [byte s.slot]

/-- An interval stamp where a minute stamp fits: the slot is FFh (R193). -/
def istampWide (s : Option IStamp) : List Byte := istampBe s ++ [0xFF]

def readIStamp (bs : List Byte) (off : Nat) : IStamp :=
  ⟨field bs off 2, field bs (off + 2) 2, field bs (off + 4) 1⟩

/-! ## Codes (R193) -/

def Kind.code : Kind → Nat
  | .pollutant => 1
  | .oxygen => 2
  | .moisture => 3
  | .temperature => 4
  | .pressure => 5
  | .flow => 6

def kindOf : Nat → Option Kind
  | 1 => some .pollutant
  | 2 => some .oxygen
  | 3 => some .moisture
  | 4 => some .temperature
  | 5 => some .pressure
  | 6 => some .flow
  | _ => none

def PlantState.code : PlantState → Nat
  | .operating => 0
  | .transition => 1
  | .standstill => 2
  | .unknown => 3

def plantStateOf : Nat → Option PlantState
  | 0 => some .operating
  | 1 => some .transition
  | 2 => some .standstill
  | 3 => some .unknown
  | _ => none

def PlantClass.code : PlantClass → Nat
  | .operating => 0
  | .transition => 1
  | .standstill => 2

def plantClassOf : Nat → Option PlantClass
  | 0 => some .operating
  | 1 => some .transition
  | 2 => some .standstill
  | _ => none

def Reason.code : Reason → Nat
  | .drift => 1
  | .check => 2
  | .fault => 3
  | .maint => 4
  | .few => 5
  | .refLost => 6

def reasonOf : Nat → Option Reason
  | 1 => some .drift
  | 2 => some .check
  | 3 => some .fault
  | 4 => some .maint
  | 5 => some .few
  | 6 => some .refLost
  | _ => none

def MinuteStatus.code : MinuteStatus → Nat
  | .valid => 0
  | .invalid r => r.code

def minuteStatusOf (n : Nat) : Option MinuteStatus :=
  if n = 0 then some .valid else (reasonOf n).map MinuteStatus.invalid

def IntervalClass.code : IntervalClass → Nat
  | .below => 0
  | .band => 1
  | .above => 2
  | .notAssessed => 3
  | .valid => 4
  | .invalid r => 8 + r.code

def intervalClassOf : Nat → Option IntervalClass
  | 0 => some .below
  | 1 => some .band
  | 2 => some .above
  | 3 => some .notAssessed
  | 4 => some .valid
  | n => if 8 < n then (reasonOf (n - 8)).map IntervalClass.invalid else none

def CloseKind.code : CloseKind → Nat
  | .expiry => 0
  | .silent => 1
  | .edge => 2
  | .realign => 3

def DayClass.code : DayClass → Nat
  | .noOperation => 0
  | .valid => 1
  | .invalid => 2

def RefOutcome.code : RefOutcome → Nat
  | .none => 0
  | .fresh => 1
  | .held => 2
  | .lost => 3

def Reply.code : Reply → Nat
  | .accepted => 0
  | .merged => 1
  | .done => 2
  | .range => 3
  | .busy => 4
  | .full => 5
  | .notRecording => 6
  | .notAvailable => 7
  | .notFound => 8
  | .wrongState => 9
  | .badArgument => 10
  | .unknownKind => 11

def RecordKind.code : RecordKind → Nat
  | .interval => 0
  | .day => 1
  | .event => 2
  | .summary => 3

def recordKindOf : Nat → Option RecordKind
  | 0 => some .interval
  | 1 => some .day
  | 2 => some .event
  | 3 => some .summary
  | _ => none

/-- The slot status of a RECORD frame: ABSENT for an ERASED slot (R150). -/
def SlotState.code : SlotState → Nat
  | .committed => 0
  | .torn => 1
  | .erased => 2

def StationState.code : StationState → Nat
  | .loading => 0
  | .mounting => 1
  | .unsynced => 2
  | .resuming => 3
  | .aligning => 4
  | .recording => 5
  | .halted => 6

def haltCode : Option HaltReason → Nat
  | none => 0
  | some .config => 1
  | some .calendarBehind => 2

def MarkSync.code : MarkSync → Nat
  | .stopped => 0
  | .locked => 1
  | .realigning => 2

def AreaState.code : AreaState → Nat
  | .free => 0
  | .opened => 1
  | .closed => 2
  | .released => 3
  | .erasing => 4
  | .foreign => 5

def ArchiveCondition.code : ArchiveCondition → Nat
  | .notMounted => 0
  | .ready => 1
  | .blocked => 2
  | .fault => 3

def Phase.code : Phase → Nat
  | .idle => 0
  | .settle => 1
  | .measure => 2
  | .purge => 3

def CheckKind.code : CheckKind → Nat
  | .zero => 0
  | .span => 1

def checkKindOf : Nat → Option CheckKind
  | 0 => some .zero
  | 1 => some .span
  | _ => none

/-! ## The check of frames and of the image (R184, R194) -/

/-- One bit of the cyclic check, generator 1021h. -/
def crcShift (c : BitVec 16) : BitVec 16 :=
  if c.msb then (c <<< 1) ^^^ 0x1021 else c <<< 1

def crcByte (c : BitVec 16) (b : Byte) : BitVec 16 :=
  let c := c ^^^ (b.setWidth 16 <<< 8)
  crcShift (crcShift (crcShift (crcShift (crcShift (crcShift (crcShift (crcShift c)))))))

/-- The 16-bit check: initial value FFFFh, each byte most significant bit first, not inverted. -/
def crc16 (bs : List Byte) : BitVec 16 := bs.foldl crcByte 0xFFFF

/-! ## Frames (R194, R195) -/

/-- The bytes of a frame on the line: header, payload, check (R194). -/
def frameLine (priority source dest kind : Nat) (payload : List Byte) : List Byte :=
  let body := [byte (32 * priority + source), byte dest, byte kind] ++ be 2 payload.length ++ payload
  body ++ be 2 (crc16 body).toNat

/-- A frame that came off the line whole, with its kind code: its check is correct, its source lies in
1..31 and its length field is the number of payload bytes (R167). -/
def readLine (line : List Byte) : Option (Byte × RxFrame) :=
  let body := line.take (line.length - 2)
  let b0 := (line.getD 0 0)
  if 7 ≤ line.length && field line 3 2 == line.length - 7 &&
      field line (line.length - 2) 2 == (crc16 body).toNat && b0.setWidth 5 != (0 : BitVec 5) then
    some (line.getD 2 0,
      { priority := (b0 >>> 5).setWidth 3, source := b0.setWidth 5, dest := line.getD 1 0,
        payload := body.drop 5 })
  else none

/-- The priority of a kind (R159). -/
def kindPriority : Nat → Nat
  | 3 => 1
  | 1 => 2
  | 2 => 3
  | 16 => 5
  | 9 => 6
  | 14 => 6
  | _ => 4

/-- The fixed length of a kind of frame by R195; a MINUTE frame's follows from its entry count. -/
def fixedLength (kind : Nat) (payload : List Byte) : Option Nat :=
  match kind with
  | 3 => some 8
  | 2 => some 71
  | 1 => some (8 + 5 * field payload 7 1)
  | 8 => some 6
  | 10 => some 2
  | 11 => some 1
  | 12 => some 2
  | 13 => some 0
  | 15 => some 0
  | _ => none

/-- One entry of a MINUTE frame. -/
structure MinuteEntry where
  channel : Nat
  status : MinuteStatus
  value : Option Int
  deriving DecidableEq, Repr

structure MinuteMsg where
  stamp : MStamp
  state : PlantState
  entries : List MinuteEntry
  deriving DecidableEq, Repr

def minutePayload (m : MinuteMsg) : List Byte :=
  mstampBe m.stamp ++ [byte m.state.code, byte m.entries.length] ++
    m.entries.flatMap fun e => [byte e.channel, byte e.status.code] ++ valueBe e.value

/-- One entry of a received MINUTE frame, with the tests of R56 on it. -/
def readMinuteEntry (bs : List Byte) : Option MinuteEntry :=
  match minuteStatusOf (field bs 1 1), readValue (field bs 2 3) with
  | some status, some value =>
    let channel := field bs 0 1
    if 1 ≤ channel && channel ≤ 8 && !(status == .valid && value.isNone) then
      some ⟨channel, status, value⟩
    else none
  | _, _ => none

/-- The entries of a received MINUTE frame; `none` when one fails. -/
def readMinuteEntries : Nat → List Byte → Option (List MinuteEntry)
  | 0, _ => some []
  | n + 1, bs =>
    match readMinuteEntry bs, readMinuteEntries n (bs.drop 5) with
    | some e, some es => some (e :: es)
    | _, _ => none

def noTwice : List Nat → Bool
  | [] => true
  | x :: xs => !(xs.contains x) && noTwice xs

/-- A MINUTE payload with the tests of R56: `none` when it fails any. -/
def readMinute (bs : List Byte) : Option MinuteMsg :=
  let count := field bs 7 1
  let stamp : MStamp := ⟨readIStamp bs 0, field bs 5 1⟩
  match plantStateOf (field bs 6 1), readMinuteEntries count (bs.drop 8) with
  | some state, some entries =>
    if stamp.valid && 1 ≤ count && count ≤ 8 && noTwice (entries.map (·.channel)) then
      some ⟨stamp, state, entries⟩
    else none
  | _, _ => none

/-- The entries of a SUMMARY frame: enabled channels first, in rising order (R195). -/
def summaryEntries (chs : Eight (Option ChanResult)) : List Byte :=
  allChans.flatMap fun c =>
    match chs.get c with
    | some r =>
      [byte (chanNumber c), byte r.cls.code] ++ valueBe r.average ++ valueBeNat r.validated
    | none => []

def summaryPayload (stamp : IStamp) (cls : PlantClass) (flags : Nat)
    (chs : Eight (Option ChanResult)) : List Byte :=
  padTo 71 (istampBe (some stamp) ++ [byte cls.code, byte flags] ++ summaryEntries chs)

def replyPayload (kind : Nat) (outcome : Reply) (sent : Nat) (request : List Byte) : List Byte :=
  [byte kind, byte outcome.code, byte sent] ++ request.take 16

def recordPayload (year : Nat) (kind : RecordKind) (index : Nat) (bytes : List Byte) : List Byte :=
  be 2 year ++ [byte kind.code] ++ be 2 index ++ [byte (slotState bytes).code] ++
    (if slotState bytes = .committed then bytes else [])

/-! ## Interval records (R197) -/

/-- A tally code: the number of binary digits of a sum. -/
def tallyCode (n : Nat) : Nat := if n = 0 then 0 else Nat.log2 n + 1

def intervalEntry : Option ChanResult → List Byte
  | none => List.replicate 10 0
  | some r =>
    valueBe r.average ++ valueBeNat r.validated ++
      [byte (32 * r.kind.code + r.v), byte (16 * r.cls.code + tallyCode r.maint),
        byte (r.flags.recordByte r.switched), byte (16 * tallyCode r.fault + tallyCode r.excluded)]

def intervalRecord (stamp : IStamp) (cls : PlantClass) (n : Notice) (acc : IntervalAcc)
    (chs : Eight (Option ChanResult)) : List Byte :=
  let part := chs.any fun r => match r with
    | some r => r.flags.part
    | none => false
  committedRecord 96
    (be 2 stamp.day ++ [byte stamp.index,
      byte (64 * cls.code + 16 * n.kind.code + stationFlags n acc.unknown),
      byte (flagBit part 7 + acc.minutes)] ++
      signedBe 3 (some n.offset) ++ be 3 n.length ++
      be 3 (2 ^ 19 * acc.operating + 2 ^ 14 * acc.unknown + 2 ^ 9 * acc.transition +
        2 ^ 4 * acc.standstill) ++ [0] ++
      allChans.flatMap fun c => intervalEntry (chs.get c))

/-- What a stored interval record tells the day and the year (R99): the plant class, and for each
channel stored as POLLUTANT its class and V. -/
def readInterval (bs : List Byte) : StoredInterval :=
  { plantClass := (plantClassOf (field bs 3 1 / 64)).getD .standstill
    chans := Eight.build fun c =>
      let off := 15 + 10 * c.val
      if field bs (off + 6) 1 / 32 = Kind.pollutant.code then
        (intervalClassOf (field bs (off + 7) 1 / 16)).map fun cls =>
          (cls, field bs (off + 3) 3 - 40000)
      else none }

/-! ## Day and summary records (R197) -/

def yearNine (y : YearChan) : List Byte :=
  be 2 y.operating ++ be 2 y.valid ++ be 2 y.invalid ++ be 2 y.band ++ be 2 y.above ++
    be 2 y.operatedDays ++ be 2 y.validDays ++ be 2 y.invalidDays ++ be 2 y.dayExceedances

def dayEntry (cfg : ChannelCfg) (res : DayResult) (d : DayChan) (y : YearChan) : List Byte :=
  if !cfg.enable then List.replicate 36 0
  else if cfg.kind != .pollutant then padTo 36 [byte cfg.kind.code]
  else
    [byte cfg.kind.code, byte (flagBit res.exceeded 7 + res.cls.code)] ++ valueBeNat res.average ++
      [byte d.operating, byte d.valid, byte d.invalid] ++ yearNine y ++ be 4 y.sumD ++
      valueBeNat y.maxV ++ valueBeNat y.maxD

def dayRecordBytes (img : Image) (day : Day) (late : Bool) (acc : DayAcc) (unrecorded : Nat)
    (res : Eight DayResult) (year : YearCounters) : List Byte :=
  committedRecord 320
    (be 2 day.year ++ be 2 day.day ++ [byte (flagBit late 0), byte acc.recorded,
      byte acc.operating, byte acc.transition, byte acc.standstill, byte unrecorded] ++
      be 2 year.transition ++ be 2 year.standstill ++ be 2 year.unrecorded ++
      allChans.flatMap fun c =>
        dayEntry (img.chans.get c) (res.get c) (acc.chans.get c) (year.chans.get c))

/-- A maximum as a day record holds it. -/
def readMax (x : Nat) : Option Nat :=
  match readValue x with
  | some (some v) => some v.toNat
  | _ => none

/-- The year-to-date counters of one channel in a day record; an entry that is no POLLUTANT entry
gives cleared counters (log 24). -/
def readYearChan (bs : List Byte) (off : Nat) : YearChan :=
  if field bs off 1 = Kind.pollutant.code then
    { operating := field bs (off + 8) 2, valid := field bs (off + 10) 2,
      invalid := field bs (off + 12) 2, band := field bs (off + 14) 2,
      above := field bs (off + 16) 2, operatedDays := field bs (off + 18) 2,
      validDays := field bs (off + 20) 2, invalidDays := field bs (off + 22) 2,
      dayExceedances := field bs (off + 24) 2, sumD := field bs (off + 26) 4,
      maxV := readMax (field bs (off + 30) 3), maxD := readMax (field bs (off + 33) 3) }
  else YearChan.cleared

/-- The year-to-date totals of a day record, for the enabled POLLUTANT channels (R106). -/
def readYear (img : Image) (bs : List Byte) : YearCounters :=
  { chans := Eight.build fun c =>
      if (img.chans.get c).isPollutant then readYearChan bs (16 + 36 * c.val) else YearChan.cleared
    transition := field bs 10 2, standstill := field bs 12 2, unrecorded := field bs 14 2 }

def summaryHeader (year station : Nat) (late : Bool) (y : YearCounters) (dropped lost : Nat) :
    List Byte :=
  committedRecord 64
    (be 2 year ++ [byte station, byte (flagBit late 0)] ++ be 2 y.transition ++ be 2 y.standstill ++
      be 2 y.unrecorded ++ be 2 dropped ++ be 2 lost)

/-- The share of R108, in hundredths of a percent; absent without a valid interval. -/
def yearShare (y : YearChan) : Option Nat :=
  if y.valid = 0 then none else some (roundDiv (10000 * (y.band + y.above)) y.valid)

/-- The mean D of R108. -/
def yearMeanD (y : YearChan) : Option Nat :=
  if y.validDays = 0 then none else some (roundDiv y.sumD y.validDays)

def passCode (b : Bool) : Nat := if b then 0 else 1

/-- The four compliance marks of R108, packed as R197 states. -/
def yearMarks (st : StationCfg) (y : YearChan) : Nat :=
  64 * passCode (y.above == 0) +
    16 * (match yearShare y with
      | none => 2
      | some share => passCode (decide (share ≤ st.share))) +
    4 * passCode (y.dayExceedances == 0) + passCode (decide (y.invalidDays ≤ st.yInv))

/-- A channel's summary record (R108). -/
def summaryChannel (img : Image) (c : Chan) (y : YearChan) : List Byte :=
  let cfg := img.chans.get c
  committedRecord 64
    (if !cfg.enable then [byte (chanNumber c), 0]
    else if cfg.kind != .pollutant then [byte (chanNumber c), byte cfg.kind.code]
    else
      [byte (chanNumber c), byte cfg.kind.code] ++ yearNine y ++ be 4 y.sumD ++
        valueBeNat y.maxV ++ valueBeNat y.maxD ++ valueBeNat (yearMeanD y) ++
        (match yearShare y with
          | none => [0xFF, 0xFF]
          | some share => be 2 share) ++ [byte (yearMarks img.station y)])

/-! ## Event records (R198) -/

/-- An event record: kind, a stamp of six bytes, its own fields, the commit byte. -/
def eventRecord (kind : Nat) (stamp : List Byte) (fields : List Byte) : List Byte :=
  committedRecord 32 ([byte kind] ++ stamp ++ fields)

def calSwitchEvent (start : IStamp) (switched : Eight Bool) : List Byte :=
  eventRecord 1 (istampWide (some start))
    [byte ((allChans.map fun c => flagBit (switched.get c) c.val).foldl (· + ·) 0)]

def markEvent (stuck : Bool) (calendar : Option IStamp) (clock : Nat) : List Byte :=
  eventRecord (if stuck then 2 else 3) (istampWide calendar) (be 3 clock)

def disagreeEvent (calendar : Option IStamp) (kind source : Nat) (stamp : IStamp) (clock : Nat) :
    List Byte :=
  eventRecord 4 (istampWide calendar)
    ([byte kind, byte source] ++ istampBe (some stamp) ++ be 3 clock)

def refStateSub (stamp : MStamp) (pair : SubPair) (outcome : RefOutcome) : List Byte :=
  eventRecord 5 (mstampBe stamp) [2, byte pair.station, byte pair.channel, byte outcome.code]

def refStateLocal (stamp : MStamp) (c : Chan) (outcome : RefOutcome) : List Byte :=
  eventRecord 5 (mstampBe stamp) [1, 0, byte (chanNumber c), byte outcome.code]

/-- The stamp of a check's events: the current interval with the open minute's slot (R120). -/
def checkStamp (calendar : Option IStamp) (slot : Option Nat) : List Byte :=
  istampBe calendar ++ [byte (slot.getD 0xFF)]

def pairByte (p : CheckPair) : Byte := byte (16 * p.path.number + p.valve)

def checkResultEvent (stamp : List Byte) (pair : CheckPair) (c : Chan) (entry : ValveEntry)
    (acc : CheckAcc) (measured : Option Int) (rec : DriftRecord) : List Byte :=
  eventRecord 6 stamp
    ([pairByte pair, byte (16 * chanNumber c + 8 * entry.kind.code + flagBit measured.isNone 2 +
      flagBit acc.overRange 1 + flagBit rec.lock 0)] ++
      be 4 (2 ^ 20 * acc.n + 2 ^ 10 * acc.maint + acc.fault) ++ signedBe 3 measured ++
      signedBe 4 (measured.map fun m => m - entry.reference) ++ valueBe (some entry.reference) ++
      be 3 rec.spos ++ be 3 rec.sneg)

def driftLockEvent (stamp : List Byte) (c : Chan) (kind : CheckKind) (posOver negOver hardOver : Bool)
    (d : Int) (rec : DriftRecord) : List Byte :=
  eventRecord 7 stamp
    ([byte (16 * chanNumber c + 8 * kind.code + flagBit posOver 2 + flagBit negOver 1 +
      flagBit hardOver 0)] ++ signedBe 4 (some d) ++ be 3 rec.spos ++ be 3 rec.sneg)

def driftResetEvent (stamp : List Byte) (c : Chan) (p : DriftPair) : List Byte :=
  eventRecord 8 stamp
    ([byte (chanNumber c), byte (flagBit p.span.lock 1 + flagBit p.zero.lock 0)] ++
      be 3 p.zero.spos ++ be 3 p.zero.sneg ++ be 3 p.span.spos ++ be 3 p.span.sneg)

def checkDroppedEvent (start : IStamp) (pair : CheckPair) : List Byte :=
  eventRecord 9 (istampWide (some start)) [pairByte pair]

def purgeCeilingEvent (stamp : List Byte) (pair : CheckPair) : List Byte :=
  eventRecord 10 stamp [pairByte pair]

/-- The states a refused job found (R139, R198). -/
def writeConflictEvent (calendar : Option IStamp) (kind found : Nat) (stamp : List Byte) :
    List Byte :=
  eventRecord 11 (istampWide calendar) ([byte kind, byte found] ++ stamp)

def busFaultEvent (calendar : Option IStamp) (queue failed : Nat) : List Byte :=
  eventRecord 12 (istampWide calendar) ([byte queue] ++ be 2 failed)

def busNormalEvent (calendar : Option IStamp) (failures : Nat) : List Byte :=
  eventRecord 13 (istampWide calendar) [byte failures]

def duplicateEvent (calendar : Option IStamp) (kind dest : Byte) : List Byte :=
  eventRecord 14 (istampWide calendar) [kind, dest]

def calendarBehindEvent (calendar : Option IStamp) (openYear : Option Nat) (found : List Byte) :
    List Byte :=
  eventRecord 15 (istampWide calendar) (be 2 (openYear.getD 0xFFFF) ++ found)

/-! ## Area headers (R134, R197) -/

def headerLen : Nat := 0x1000

/-- The state an area's header sector shows (R134); `erased` tells whether every byte of the sector
is erased. The last line's cut-off header reads RELEASED. -/
def headerState (bs : List Byte) (erased : Bool) (own : Nat) : AreaState :=
  let marker := fun off => (bs.getD off 0xFF) == (0x00 : Byte)
  if erased then .free
  else if marker 7 then .erasing
  else if marker 6 then .released
  else if marker 5 then (if field bs 2 1 = own then .closed else .foreign)
  else if marker 4 then (if field bs 2 1 = own then .opened else .foreign)
  else .released

/-- The area table's entry of a header read at mount. -/
def headerEntry (bs : List Byte) (erased : Bool) (own : Nat) : AreaEntry :=
  let st := headerState bs erased own
  if st = .free then ⟨.free, none, none, false⟩
  else ⟨st, some (field bs 0 2), some (field bs 2 1), false⟩

end Sys2Proof.Machine
end

