-- ==== Sys2Proof/Machine/RecordQueue.lean ====
section
/-! DEFINITION. The record queue and the flash sequencer (spec/08, R136 to R146): submitting a job,
selecting the next flash operation, requesting a read, and what a cut-off operation leaves. -/

namespace Sys2Proof.Machine

/-- A count of R137 or R177, saturating at 65,535. -/
def count16 (n : Nat) : Nat := satInc 65535 n

/-- `k` added to a count of R137. -/
def add16 (n k : Nat) : Nat := min 65535 (n + k)

/-! ## The area table -/

/-- The area in state OPEN, with its entry; R134 has at most one. -/
def Archive.openArea (a : Archive) : Option (Area × AreaEntry) :=
  match a.table with
  | none => none
  | some t => ((allAreas.map fun i => (i, t.get i)).find? fun e => e.2.state == .opened)

/-- The table's entry of an area changed. -/
def Archive.setArea (a : Archive) (i : Area) (f : AreaEntry → AreaEntry) : Archive :=
  { a with table := a.table.map fun t => t.modify i f }

def Archive.areaState (a : Archive) (i : Area) : Option AreaState :=
  a.table.map fun t => (t.get i).state

/-- A RELEASE was accepted for the area and its RELEASED marker is not yet programmed (R135). -/
def Archive.releaseWaiting (a : Archive) (i : Area) : Bool :=
  match a.table with
  | none => false
  | some t => (t.get i).releaseMark

/-- Mount has completed (R152). -/
def Archive.mounted (a : Archive) : Bool := a.condition != .notMounted && a.mount == .off

/-! ## Submitting a job (R136, R137) -/

def Job.isRecord : Job → Bool
  | .interval _ _ => true
  | .day _ _ => true
  | .summary _ _ _ => true
  | .event _ => true
  | .yearEnd _ _ => false
  | .released _ => false

def Archive.addDropped (k : Nat) (a : Archive) : Archive :=
  { a with counts := { a.counts with dropped := add16 a.counts.dropped k
                                     yearDropped := add16 a.counts.yearDropped k } }

def Archive.addLost (a : Archive) : Archive :=
  { a with counts := { a.counts with lost := count16 a.counts.lost
                                     yearLost := count16 a.counts.yearLost } }

/-- A job the queue does not take: a record job raises the dropped-record counts. -/
def Archive.dropJob (j : Job) (a : Archive) : Archive :=
  if j.isRecord then a.addDropped 1 else a

def Archive.appendJob (j : Job) (a : Archive) : Archive :=
  if a.queue.length < 16 then { a with queue := a.queue ++ [j] } else a.dropJob j

/-- A job is taken or dropped by the condition at submission (R136). -/
def Archive.enqueue (j : Job) (a : Archive) : Archive :=
  match a.condition, j with
  | .fault, _ => a.dropJob j
  | .blocked, .released _ => a.appendJob j
  | .blocked, _ => a.dropJob j
  | _, _ => a.appendJob j

/-- The head job ends and leaves the queue. -/
def Archive.popJob (a : Archive) : Archive := { a with queue := a.queue.tail, jobFound := false }

/-! ## Selecting the next operation (R138) -/

/-- A record job that finds no area, a wrong year or a slot not ERASED is discarded, counted, and
answered by a WRITE_CONFLICT event at the tail (R139). -/
def refuseJob (calendar : Option IStamp) (kind found : Nat) (stamp : List Byte) (a : Archive) :
    Archive :=
  (a.popJob.addDropped 1).enqueue (.event (writeConflictEvent calendar kind found stamp))

/-- An interval, day or summary job is taken (R139): refused, or its slot is read, or, its slot found
ERASED, programmed. -/
def takeRecord (calendar : Option IStamp) (year : Nat) (kind : RecordKind) (index : Nat)
    (data stamp : List Byte) (a : Archive) : Archive :=
  match a.openArea with
  | none => refuseJob calendar kind.code 0 stamp a
  | some (i, e) =>
    if e.year ≠ some year then refuseJob calendar kind.code 1 stamp a
    else if a.jobFound then
      { a with activity := .programming ⟨.record, slotAddr i kind index, data, 10⟩ }
    else { a with activity := .reading ⟨.job, slotAddr i kind index, slotSize kind⟩ }

/-- An event job is taken (R140). -/
def takeEvent (data : List Byte) (a : Archive) : Archive :=
  match a.openArea with
  | none => a.popJob.addDropped 1
  | some (i, _) =>
    if 2048 ≤ a.nextEvent then a.popJob.addLost
    else if a.jobFound then
      { a with
        activity := .programming ⟨.record, slotAddr i .event a.nextEvent, data, 10⟩
        nextEvent := a.nextEvent + 1 }
    else { a with activity := .reading ⟨.job, slotAddr i .event a.nextEvent, slotSize .event⟩ }

/-- The year a refused job names, where a stamp fits (R198). -/
def yearStamp (year : Nat) : List Byte := be 2 year ++ [0xFF, 0xFF, 0xFF]

/-- The stamp a WRITE_CONFLICT event gives for a job (log 30). -/
def Job.conflictStamp : Job → List Byte
  | .interval st _ => istampBe (some st)
  | .day d _ => be 2 d.year ++ be 2 d.day ++ [0xFF]
  | .summary y _ _ => yearStamp y
  | .event _ => yearStamp 0xFFFF
  | .yearEnd c _ => yearStamp c
  | .released _ => yearStamp 0xFFFF

/-- The year-end job is taken (R145). -/
def takeYearEnd (calendar : Option IStamp) (closing opening : Nat) (a : Archive) : Archive :=
  match a.openArea with
  | none => a.popJob
  | some (i, e) =>
    if e.year = some closing then
      { a with activity := .programming ⟨.closeYear i opening, areaBase i + 5, [0x00], 10⟩ }
    else a.popJob.enqueue (.event (writeConflictEvent calendar 4 1 (yearStamp closing)))

/-- The job at the head of the queue is taken. -/
def takeJob (calendar : Option IStamp) (j : Job) (a : Archive) : Archive :=
  match j with
  | .interval st data =>
    takeRecord calendar st.year .interval (intervalIndex st) data j.conflictStamp a
  | .day d data => takeRecord calendar d.year .day (d.day - 1) data j.conflictStamp a
  | .summary year slot data => takeRecord calendar year .summary slot data j.conflictStamp a
  | .event data => takeEvent data a
  | .yearEnd closing opening => takeYearEnd calendar closing opening a
  | .released i => { a with activity := .programming ⟨.release i, areaBase i + 6, [0x00], 10⟩ }

/-- A pending opening is served (R146): the header of a FREE area is programmed with the year, the
station number and the OPEN marker; otherwise the archive is BLOCKED on the area. OPEN is programmed only
while no other area is OPEN (R134): an opening that met one, as in no run, is dropped (log 45). -/
def serveOpening (station : Nat) (o : Opening) (a : Archive) : Archive :=
  if a.areaState o.area ≠ some .free then
    { a with opening := none, condition := .blocked, wanted := some o.area }
  else if a.openArea.isSome then { a with opening := none }
  else
    { a with
      opening := none
      activity := .programming
        ⟨.opening o.area o.year, areaBase o.area,
          be 2 o.year ++ [byte station, 0xFF, 0x00], 10⟩ }

/-- The next step of the erase list (R142): step 1 programs the ERASING marker, the others erase. An
area whose RELEASED marker is still to be programmed waits. -/
def startErase (a : Archive) : Archive :=
  match a.erases with
  | [] => a
  | e :: _ =>
    if a.releaseWaiting e.area then a
    else if e.step = 1 then
      { a with activity := .programming ⟨.erasing e.area, areaBase e.area + 7, [0x00], 10⟩ }
    else { a with activity := .erasing ⟨e.area, e.step, 0, 0⟩ }

/-- One selection after another until an operation is in flight or nothing waits (R138). Each turn
that starts nothing ends a job or an opening, so the fuel of `select` suffices. -/
def selectWith (calendar : Option IStamp) (station : Nat) : Nat → Archive → Archive
  | 0, a => a
  | n + 1, a =>
    if a.activity ≠ .idle then a
    else
      match a.reads, a.opening, a.queue with
      | r :: rs, _, _ => { a with activity := .reading r, reads := rs }
      | [], some o, _ => selectWith calendar station n (serveOpening station o a)
      | [], none, j :: _ =>
        if a.service then selectWith calendar station n (takeJob calendar j a)
        else if a.mounted && a.condition != .fault then startErase a
        else a
      | [], none, [] =>
        if a.mounted && a.condition != .fault then startErase a else a

/-- The sequencer selects its next operation. -/
def select (s : State) : State :=
  { s with arch := selectWith s.mark.calendar s.number 64 s.arch }

/-- A job is submitted to the record queue (R136); the sequencer selects when nothing is in flight. -/
def submitJob (j : Job) (s : State) : State :=
  select { s with arch := s.arch.enqueue j }

/-- An event record is submitted to the record queue. -/
def submitEvent (data : List Byte) (s : State) : State := submitJob (.event data) s

def submitJobs : List Job → State → State
  | [], s => s
  | j :: js, s => submitJobs js (submitJob j s)

/-! ## Reads (R138, R143) -/

/-- The oldest waiting read is served from a suspended erase. -/
def serveSuspended (er : EraseRun) (a : Archive) : Archive :=
  match a.reads with
  | [] => a
  | r :: rs => { a with activity := .suspendedRead er r, reads := rs }

/-- A read is requested (R138, R143): it suspends an erase that has run its minimum. -/
def requestRead (r : ReadReq) (s : State) : State :=
  let a := { s.arch with reads := s.arch.reads ++ [r] }
  match a.activity with
  | .erasing er =>
    if s.cfg.station.minRun ≤ er.run then { s with arch := serveSuspended er a }
    else { s with arch := a }
  | .suspendedHold er _ => { s with arch := serveSuspended er a }
  | _ => select { s with arch := a }

/-- The flash line after a read completes (R138, R143): the next read at once during a suspension,
else the holdoff; otherwise nothing in flight. -/
def endRead (holdoff : Nat) (a : Archive) : Archive :=
  match a.activity with
  | .suspendedRead er _ =>
    match a.reads with
    | [] => { a with activity := .suspendedHold er holdoff }
    | r :: rs => { a with activity := .suspendedRead er r, reads := rs }
  | _ => { a with activity := .idle }

/-- The read in flight, if one is. -/
def Activity.read : Activity → Option ReadReq
  | .reading r => some r
  | .suspendedRead _ r => some r
  | _ => none

/-! ## What a cut-off operation leaves (log 7, 8) -/

/-- The last byte of a program follows all its other bytes: the commit byte of a slot (R133) and the
OPEN marker of a header (R134). -/
def ProgramFor.lastFollows : ProgramFor → Bool
  | .record => true
  | .opening _ _ => true
  | .closeYear _ _ => false
  | .release _ => false
  | .erasing _ => false
  | .mountClose _ => false

/-- The bytes a cut-off program leaves of its data: free, but where nothing is programmed. With its last
byte following the others, that byte changes only when they all stand (R133, R134); a reset that cuts the
program off leaves it unprogrammed or short of 00h, so that the slot is no COMMITTED one and the header
shows no marker. A later marker has one byte of its own: not yet changed, it is as it stood (`old`), so
that no cut-off program makes a header read FREE (R134). -/
def cutData (draw : Nat) (reset follows : Bool) (old : Nat → Byte) (data : List Byte) : List Byte :=
  let last := Config.cutByte draw (data.length - 1)
  (withPlaces 0 data).map fun p =>
    if p.2 = erasedByte then erasedByte
    else if !follows then
      if Config.cutByte draw p.1 = erasedByte then old p.1 else Config.cutByte draw p.1
    else if p.1 + 1 = data.length then
      if reset && last == 0x00 then erasedByte else last
    else if last != erasedByte then p.2
    else Config.cutByte draw p.1

/-- The place and the length of an erase step (R142). -/
def eraseRange (er : EraseRun) : Nat × Nat :=
  if er.step ≤ 32 then (areaBase er.area + (er.step - 1) * 0x10000, 0x10000)
  else if er.step ≤ 47 then (areaBase er.area + (er.step - 32) * 0x1000, 0x1000)
  else (areaBase er.area, 0x1000)

/-- The time limit of an erase step (R142): 4 s for a block, 1 s for a sector. -/
def eraseLimit (step : Nat) : Nat := if step ≤ 32 then 4000 else 1000

/-- The first eight bytes of a header whose erase was cut off with no marker programmed: not all of
them erased. -/
def cutHeaderBytes (draw : Nat) : List Byte :=
  let drawn := (List.range 8).map fun i =>
    let b := Config.cutErase draw i
    if 4 ≤ i && b == 0x00 then erasedByte else b
  if drawn.all (· == erasedByte) then [0x00] else drawn

/-- A header sector whose ERASING marker an erase has cleared. A header that holds no other programmed
byte keeps the marker, so that it does not read FREE (R142). -/
def cutMarker (draw base : Nat) (m : List Host.Cell) : List Host.Cell :=
  let b := Config.cutErase draw 7
  let gone := flashWrite m (base + 7) (if b = 0x00 then erasedByte else b)
  if flashErased gone base headerLen then m else gone

/-- What an erase cut off leaves (R142, R180): free bytes in its block or sector; a header that reads
ERASING, or RELEASED, or not erased. -/
def cutErased (draw : Nat) (er : EraseRun) (m : List Host.Cell) : List Host.Cell :=
  if er.step < 48 then
    flashScramble m (eraseRange er).1 (eraseRange er).2 (Config.cutErase draw)
  else
    match Config.cutHeader draw with
    | 0 => m
    | 1 => cutMarker draw (areaBase er.area) m
    | _ => flashWriteBytes (flashErase m (areaBase er.area) headerLen) (areaBase er.area)
        (cutHeaderBytes draw)

/-- The flash after the operation in flight is cut off, by a reset (`reset`) or by a failure. -/
def cutFlash (reset : Bool) (s : State) : State :=
  match s.arch.activity with
  | .programming p =>
    { s with
      flash := flashWriteBytes s.flash p.addr
        (cutData s.draws reset p.purpose.lastFollows (fun i => flashRead s.flash (p.addr + i)) p.data)
      draws := s.draws + 1 }
  | .erasing er => { s with flash := cutErased s.draws er s.flash, draws := s.draws + 1 }
  | .suspendedRead er _ => { s with flash := cutErased s.draws er s.flash, draws := s.draws + 1 }
  | .suspendedHold er _ => { s with flash := cutErased s.draws er s.flash, draws := s.draws + 1 }
  | _ => s

/-- The archive enters FAULT (R144): the operation in flight is abandoned, the queue's jobs are
discarded and its record jobs counted, a pending opening is discarded. -/
def archiveFault (s : State) : State :=
  let s := cutFlash false s
  { s with arch :=
      { s.arch.addDropped (s.arch.queue.countP Job.isRecord) with
        condition := .fault, queue := [], jobFound := false, opening := none, wanted := none,
        activity := .idle } }

/-- An opening is made pending (R146); in FAULT it is discarded at once. -/
def Archive.makeOpening (o : Opening) (a : Archive) : Archive :=
  if a.condition = .fault then a else { a with opening := some o }

end Sys2Proof.Machine
end

