-- ==== Sys2Proof/Machine/TxQueue.lean ====
section
/-! DEFINITION. The transmit queue (spec/09, R160 to R164): submitting a frame and beginning an
attempt, and the replies built on it. -/

namespace Sys2Proof.Machine

/-- A frame takes its place behind every frame of the same or a lower priority number (R163). -/
def insertFrame (f : TxFrame) : List TxFrame → List TxFrame
  | [] => [f]
  | g :: gs => if g.priority ≤ f.priority then g :: insertFrame f gs else f :: g :: gs

/-- The greatest priority number among the frames not in flight. -/
def greatestPriority (q : List TxFrame) : Nat :=
  ((q.filter fun g => !g.inFlight).map (·.priority)).foldl max 0

/-- The oldest frame not in flight of a priority number leaves the queue. -/
def evictFrame (priority : Nat) (q : List TxFrame) : List TxFrame :=
  q.eraseP fun g => !g.inFlight && g.priority == priority

/-- The head frame is marked in flight and sent into contention; the medium is then busy (R161). -/
def Bus.startAttempt (b : Bus) : Bus :=
  match b.queue with
  | [] => b
  | f :: fs => { b with queue := { f with inFlight := true } :: fs, mediumIdle := false }

/-- A frame of the queue is in flight. -/
def Bus.inFlight (b : Bus) : Option TxFrame := b.queue.find? fun f => f.inFlight

def Bus.addDropped (b : Bus) : Bus :=
  { b with counts := { b.counts with dropped := count16 b.counts.dropped } }

/-- A frame is submitted to the transmit queue (R163, R164). Into an empty queue while the medium is
idle, its attempt begins at the submission (R161). Of a submission that follows a fall to idle at the same
instant, the queue empty, R161 says this and also that the frame is sent at a later idle: the attempt begins
here too (DESIGN CHOICE, log 48). -/
def Bus.submit (f : TxFrame) (b : Bus) : Bus :=
  if b.queue.length < 12 then
    let b' := { b with queue := insertFrame f b.queue }
    if b.queue.isEmpty && b.mediumIdle then b'.startAttempt else b'
  else if f.priority < greatestPriority b.queue then
    { b.addDropped with
      queue := insertFrame f (evictFrame (greatestPriority b.queue) b.queue) }
  else b.addDropped

/-- A frame as the station builds it (R160). -/
def buildFrame (kind dest : Nat) (payload : List Byte) : TxFrame :=
  { priority := kindPriority kind, dest := dest, kind := kind, payload := payload, age := 0,
    failed := 0, inFlight := false, restartReply := false }

def submitFrame (f : TxFrame) (s : State) : State := { s with bus := s.bus.submit f }

/-- A REPLY is built and submitted (R171). -/
def sendReply (dest kind : Nat) (outcome : Reply) (sent : Nat) (request : List Byte) (s : State) :
    State :=
  submitFrame (buildFrame 16 dest (replyPayload kind outcome sent request)) s

/-- A request of a kind, answered with an outcome and no records. -/
def answer (kind : Nat) (f : RxFrame) (outcome : Reply) (s : State) : State :=
  sendReply f.source.toNat kind outcome 0 f.payload s

/-- The bytes the station puts on the line while an attempt is under way (R194). -/
def State.line (s : State) : List Byte :=
  match s.bus.inFlight with
  | some f => frameLine f.priority s.number f.dest f.kind f.payload
  | none => []

end Sys2Proof.Machine
end

