-- ==== Sys2Proof/Machine/Checks.lean ====
section
/-! DEFINITION. The Check Sequencer (spec/07): offers, phases, results, drift, the purge and its two
requests. -/

namespace Sys2Proof.Machine

/-- The valve entry of a channel for a valve code (R111). -/
def ChannelCfg.valveEntry (c : ChannelCfg) (code : Nat) : Option ValveEntry :=
  c.valves.find? fun v => v.code == code

/-- The enabled channels on a path, in rising order (R111). -/
def Image.pathChans (img : Image) (p : Path) : List Chan :=
  allChans.filter fun c => (img.chans.get c).onPath p

/-- The measured channels of a check (R117). -/
def Image.measuredChans (img : Image) (pair : CheckPair) : List Chan :=
  (img.pathChans pair.path).filter fun c => ((img.chans.get c).valveEntry pair.valve).isSome

/-- A valve code is used on a path (R111); a path with no enabled channel uses none. -/
def Image.valveUsed (img : Image) (p : Path) (code : Nat) : Bool :=
  !(img.measuredChans ⟨p, code⟩).isEmpty

/-- The stamp of a check's event records: the current interval with the open minute's slot (R120). -/
def State.checkStamp (s : State) : List Byte :=
  Sys2Proof.Machine.checkStamp s.mark.calendar (s.port.openMin.map (·.slot))

/-! ## Starting a check (R116) -/

/-- The open minute of every enabled channel on the path takes the CHECKED mark (R7, R116). -/
def checkedAccs (img : Image) (p : Path) (accs : Eight MinuteAcc) : Eight MinuteAcc :=
  Eight.build fun c =>
    if (img.chans.get c).onPath p then { accs.get c with checked := true } else accs.get c

def markChecked (p : Path) (s : State) : State :=
  if s.port.openMin.isSome then
    { s with port := { s.port with acc := checkedAccs s.cfg p s.port.acc } }
  else s

/-- A check starts (R116): its path enters SETTLE and VALVE takes its code. -/
def startCheck (pair : CheckPair) (s : State) : State :=
  markChecked pair.path
    { s with chk :=
      { s.chk with current := some ⟨pair, .settle (1000 * (s.cfg.path pair.path).settle)⟩ } }

/-- The head of the queue leaves it and starts, when no check is in progress (R114, R126). -/
def startNext (s : State) : State :=
  match s.chk.current, s.chk.queue with
  | none, pair :: rest => startCheck pair { s with chk := { s.chk with queue := rest } }
  | _, _ => s

/-! ## Offering a check (R114) -/

def State.pairKnown (s : State) (pair : CheckPair) : Bool :=
  (match s.chk.current with
    | some c => c.pair == pair
    | none => false) || s.chk.queue.contains pair

/-- The tests of R114 in their order. -/
def offerOutcome (path valve : Nat) (s : State) : Reply :=
  match pathOf path with
  | none => .badArgument
  | some p =>
    if !s.cfg.valveUsed p valve then .badArgument
    else if !s.recording then .notRecording
    else if s.pairKnown ⟨p, valve⟩ then .merged
    else if 4 ≤ s.chk.queue.length then .full
    else .accepted

/-- A check is offered (R114): its outcome, and the state, changed only by ACCEPTED. -/
def offerCheck (path valve : Nat) (s : State) : Reply × State :=
  match offerOutcome path valve s, pathOf path with
  | .accepted, some p =>
    (.accepted, startNext { s with chk := { s.chk with queue := s.chk.queue ++ [⟨p, valve⟩] } })
  | outcome, _ => (outcome, s)

/-! ## The schedule (R115) -/

def ScheduleEntry.due (e : ScheduleEntry) (start : IStamp) : Bool :=
  e.index == start.index && (start.day - 1) % e.period == e.phase

/-- A due schedule entry is offered; refused FULL, it is dropped with a CHECK_DROPPED event. -/
def offerScheduled (start : IStamp) (p : Path) (e : ScheduleEntry) (s : State) : State :=
  if e.due start then
    match offerCheck p.number e.code s with
    | (.full, s') => submitEvent (checkDroppedEvent start ⟨p, e.code⟩) s'
    | (_, s') => s'
  else s

/-- The schedules of both paths at a recorded start, path 1 first (R115). -/
def testSchedules (start : IStamp) (s : State) : State :=
  let s := s.cfg.path1.schedule.foldl (fun s e => offerScheduled start .one e s) s
  s.cfg.path2.schedule.foldl (fun s e => offerScheduled start .two e s) s

/-! ## MEASURE (R117 to R120) -/

/-- The path enters MEASURE; the accumulators of the measured channels are cleared (R117). -/
def enterMeasure (pair : CheckPair) (s : State) : State :=
  { s with chk :=
    { s.chk with
      current := some ⟨pair, .measure (1000 * (s.cfg.path pair.path).measure)⟩
      acc := Eight.build fun c =>
        if (s.cfg.measuredChans pair).contains c then CheckAcc.cleared else s.chk.acc.get c } }

/-- A word is taken by the check accumulator of its channel (R118); `st` the converter status:
0 OK, 1 MAINT, 2 FAULT, 3 OVER. -/
def CheckAcc.take (st code : Nat) (a : CheckAcc) : CheckAcc :=
  match st with
  | 1 => { a with maint := satInc 1000 a.maint }
  | 2 => { a with fault := satInc 1000 a.fault }
  | _ =>
    let a := { a with overRange := a.overRange || st == 3 }
    if a.n < 1000 then { a with n := a.n + 1, sum := a.sum + code } else a

/-- The drift update of R122. -/
def DriftRecord.update (k : Nat) (d : Int) (r : DriftRecord) : DriftRecord :=
  { r with
    spos := (clampInt 0 9999999 (r.spos + d - k)).toNat
    sneg := (clampInt 0 9999999 (r.sneg - d - k)).toNat }

/-- The three conditions of R123 on an updated record. -/
def DriftRecord.over (cfg : ChannelCfg) (d : Int) (r : DriftRecord) : Bool :=
  decide (cfg.driftH < r.spos) || decide (cfg.driftH < r.sneg) || decide (cfg.driftHard < d.natAbs)

def DriftPair.get (p : DriftPair) : CheckKind → DriftRecord
  | .zero => p.zero
  | .span => p.span

def DriftPair.set (p : DriftPair) (k : CheckKind) (r : DriftRecord) : DriftPair :=
  match k with
  | .zero => { p with zero := r }
  | .span => { p with span := r }

/-- The record of a check result after R122 and R123. -/
def DriftRecord.result (cfg : ChannelCfg) (d : Int) (r : DriftRecord) : DriftRecord :=
  let r' := r.update cfg.driftK d
  { r' with lock := r.lock || r'.over cfg d }

/-- The result of one measured channel at the measure timer's expiry (R119, R120, R122, R123). -/
def measureChannel (pair : CheckPair) (c : Chan) (s : State) : State :=
  let cfg := s.cfg.chans.get c
  match cfg.valveEntry pair.valve with
  | none => s
  | some entry =>
    let acc := s.chk.acc.get c
    let old := (s.chk.drift.get c).get entry.kind
    if acc.n < 10 then
      submitEvent (checkResultEvent s.checkStamp pair c entry acc none old) s
    else
      let measured := calibrate (s.calSet c) acc.n acc.sum
      let d := measured - entry.reference
      let new := old.result cfg d
      let s := { s with chk := { s.chk with
        drift := s.chk.drift.modify c fun p => p.set entry.kind new } }
      let s := submitEvent (checkResultEvent s.checkStamp pair c entry acc (some measured) new) s
      if new.lock && !old.lock then
        submitEvent (driftLockEvent s.checkStamp c entry.kind (decide (cfg.driftH < new.spos))
          (decide (cfg.driftH < new.sneg)) (decide (cfg.driftHard < d.natAbs)) d new) s
      else s

/-! ## PURGE (R124 to R126) -/

/-- The path enters PURGE (R124). -/
def enterPurge (pair : CheckPair) (s : State) : State :=
  let p := s.cfg.path pair.path
  { s with chk :=
    { s.chk with current := some ⟨pair, .purge (some (1000 * p.purge)) (1000 * p.ceiling) false⟩ } }

/-- The purge ends (R126): the path is IDLE, and the head of the queue starts. -/
def endPurge (s : State) : State := startNext { s with chk := { s.chk with current := none } }

/-- The ready input of a path becomes active (R125). -/
def readyActive (p : Path) (s : State) : State :=
  match s.chk.current with
  | some ⟨pair, .purge _ _ true⟩ => if pair.path = p then endPurge s else s
  | _ => s

/-! ## Requests (R127 to R129) -/

def handleCheck (f : RxFrame) (s : State) : State :=
  let r := offerCheck (field f.payload 0 1) (field f.payload 1 1) s
  answer 10 f r.1 r.2

/-- The tests of R128 in their order. -/
def driftResetOutcome (channel : Nat) (s : State) : Reply :=
  match chanOf channel with
  | none => .badArgument
  | some c =>
    if !(s.cfg.chans.get c).enable then .badArgument
    else if !s.recording then .notRecording
    else if s.underCheck c then .busy
    else .accepted

/-- The event, then both records of the channel cleared (R129). -/
def applyDriftReset (c : Chan) (s : State) : State :=
  let s := submitEvent (driftResetEvent s.checkStamp c (s.chk.drift.get c)) s
  { s with chk := { s.chk with drift := s.chk.drift.set c DriftPair.reset } }

def handleDriftReset (f : RxFrame) (s : State) : State :=
  let channel := field f.payload 0 1
  match driftResetOutcome channel s, chanOf channel with
  | .accepted, some c => answer 11 f .accepted (applyDriftReset c s)
  | outcome, _ => answer 11 f outcome s

/-! ## The timers of a check -/

/-- SETTLE_EXPIRY (R117). -/
def execSettleExpiry (s : State) : Host.Outcome State Fault Refusal :=
  match s.chk.current with
  | some ⟨pair, .settle _⟩ => .next (enterMeasure pair s)
  | _ => .next s

/-- MEASURE_EXPIRY (R119): a result for each measured channel in rising order, then PURGE. -/
def execMeasureExpiry (s : State) : Host.Outcome State Fault Refusal :=
  match s.chk.current with
  | some ⟨pair, .measure _⟩ =>
    .next (enterPurge pair
      ((s.cfg.measuredChans pair).foldl (fun s c => measureChannel pair c s) s))
  | _ => .next s

/-- PURGE_TIMER_EXPIRY (R125): the purge ends when the ready input is active, and otherwise takes the
served mark. -/
def execPurgeTimerExpiry (s : State) : Host.Outcome State Fault Refusal :=
  match s.chk.current with
  | some ⟨pair, .purge (some _) ceiling _⟩ =>
    if s.ready pair.path then .next (endPurge s)
    else .next { s with chk := { s.chk with current := some ⟨pair, .purge none ceiling true⟩ } }
  | _ => .next s

/-- PURGE_CEILING (R125): the purge ends with its event. -/
def execPurgeCeiling (s : State) : Host.Outcome State Fault Refusal :=
  match s.chk.current with
  | some ⟨pair, .purge _ _ _⟩ => .next (endPurge (submitEvent (purgeCeilingEvent s.checkStamp pair) s))
  | _ => .next s

end Sys2Proof.Machine
end

