-- ==== Sys2Proof/Machine/Interval.lean ====
section
/-! DEFINITION. The Interval Engine (spec/06): the accumulators, the completion of an interval, and the
close of a day and of a year. -/

namespace Sys2Proof.Machine

/-! ## Interval accumulators (R88 to R90) -/

/-- A minute is considered for a channel of a kind (R89). -/
def consideredIn (kind : Kind) (st : PlantState) : Bool :=
  kind != .pollutant || st == .operating || st == .unknown

/-- The value a VALID minute contributes (R89). -/
def MinuteResult.contribution (kind : Kind) (r : MinuteResult) : Int :=
  match kind with
  | .pollutant => (r.norm.getD 0 : Nat)
  | _ => r.value.getD 0

/-- The tally of R88 with one reason raised. -/
def Tally.raise (t : Tally) : Reason → Tally
  | .drift => { t with drift := t.drift + 1 }
  | .check => { t with check := t.check + 1 }
  | .fault => { t with fault := t.fault + 1 }
  | .maint => { t with maint := t.maint + 1 }
  | .few => { t with few := t.few + 1 }
  | .refLost => { t with refLost := t.refLost + 1 }

def Tally.count (t : Tally) : Reason → Nat
  | .drift => t.drift
  | .check => t.check
  | .fault => t.fault
  | .maint => t.maint
  | .few => t.few
  | .refLost => t.refLost

/-- The counts and sums of a channel after the status of a minute (R90). -/
def ChanAcc.takeStatus (kind : Kind) (st : PlantState) (r : MinuteResult) (a : ChanAcc) : ChanAcc :=
  match r.status with
  | .valid =>
    let x := r.contribution kind
    let a := { a with anyValid := a.anyValid + 1, anySum := a.anySum + x }
    if consideredIn kind st then { a with v := a.v + 1, vSum := a.vSum + x } else a
  | .invalid reason =>
    if consideredIn kind st then { a with tally := a.tally.raise reason } else a

/-- A channel's accumulator takes its result of a minute (R90). -/
def ChanAcc.take (kind : Kind) (st : PlantState) (r : MinuteResult) (a : ChanAcc) : ChanAcc :=
  let b := a.takeStatus kind st r
  { b with
    considered := if consideredIn kind st then b.considered + 1 else b.considered
    flags := b.flags.or r.flags
    maint := b.maint + r.maint
    fault := b.fault + r.fault
    excluded := b.excluded + r.excluded }

/-- The station part takes a minute's plant state (R27, R90). -/
def IntervalAcc.takeState (st : PlantState) (a : IntervalAcc) : IntervalAcc :=
  let a := { a with minutes := a.minutes + 1 }
  match st with
  | .operating => { a with operating := a.operating + 1 }
  | .unknown => { a with operating := a.operating + 1, unknown := a.unknown + 1 }
  | .transition => { a with transition := a.transition + 1 }
  | .standstill => { a with standstill := a.standstill + 1 }

/-- A resolved minute is taken by the accumulators of the head (R87, R90). -/
def IntervalAcc.take (img : Image) (st : PlantState) (results : Eight (Option MinuteResult))
    (a : IntervalAcc) : IntervalAcc :=
  let b := a.takeState st
  { b with
    chans := Eight.build fun c =>
      match results.get c with
      | some r => (b.chans.get c).take (img.chans.get c).kind st r
      | none => b.chans.get c }

/-! ## Completing an interval (R28, R91 to R95) -/

/-- The plant class of an interval (R28). -/
def plantClass (pOp minutes operating transition : Nat) : PlantClass :=
  if ceilPercent minutes pOp ≤ operating then .operating
  else if 1 ≤ operating + transition then .transition
  else .standstill

/-- The invalid reason (R93): the highest count, the first in the order of the reasons. -/
def Tally.dominant (t : Tally) : Reason :=
  let first := fun (a b : Reason) => if t.count a < t.count b then b else a
  first (first (first (first (first .drift .check) .fault) .maint) .few) .refLost

/-- The average of a sum over a count; absent over none (R92). A TEMPERATURE sum is raised. -/
def averageOf (kind : Kind) (count : Nat) (sum : Int) : Option Int :=
  if count = 0 then none
  else
    match kind with
    | .temperature => some ((roundDiv (sum + 40000 * count).toNat count : Nat) - 40000)
    | _ => some (roundDiv sum.toNat count : Nat)

/-- The interval average A (R92). -/
def intervalAverage (kind : Kind) (cls : PlantClass) (a : ChanAcc) : Option Int :=
  if kind == .pollutant && cls != .operating then averageOf kind a.anyValid a.anySum
  else averageOf kind a.v a.vSum

/-- The channel is valid for the interval (R91). -/
def channelValid (quota : Nat) (a : ChanAcc) : Bool := decide (ceilPercent a.considered quota ≤ a.v)

/-- The validated value V of R94. -/
def validatedValue (cfg : ChannelCfg) (average : Int) : Nat :=
  (average - (roundDiv (cfg.limD * cfg.cip) 100 : Nat)).toNat

/-- The class of V against the limits (R94). -/
def limitClass (cfg : ChannelCfg) (v : Nat) : IntervalClass :=
  if v ≤ cfg.limB then .below else if v ≤ cfg.limA then .band else .above

/-- The class and the validated value of a channel (R94, R95). -/
def channelClass (cfg : ChannelCfg) (quota : Nat) (cls : PlantClass) (a : ChanAcc) :
    IntervalClass × Option Nat :=
  if cfg.kind == .pollutant then
    if cls != .operating then (.notAssessed, none)
    else if channelValid quota a then
      let v := validatedValue cfg ((intervalAverage cfg.kind cls a).getD 0)
      (limitClass cfg v, some v)
    else (.invalid a.tally.dominant, none)
  else if channelValid quota a then (.valid, none)
  else (.invalid a.tally.dominant, none)

/-- What a completed interval says of a channel (R91 to R96). -/
def chanResult (cfg : ChannelCfg) (quota : Nat) (cls : PlantClass) (switched : Bool) (a : ChanAcc) :
    ChanResult :=
  { kind := cfg.kind, cls := (channelClass cfg quota cls a).1,
    average := intervalAverage cfg.kind cls a, validated := (channelClass cfg quota cls a).2,
    v := a.v, flags := a.flags, switched := switched, maint := a.maint, fault := a.fault,
    excluded := a.excluded }

/-- The results of the enabled channels. -/
def chanResults (img : Image) (cls : PlantClass) (switched : Eight Bool) (a : IntervalAcc) :
    Eight (Option ChanResult) :=
  Eight.build fun c =>
    if (img.chans.get c).enable then
      some (chanResult (img.chans.get c) img.station.quota cls (switched.get c) (a.chans.get c))
    else none

/-! ## Taking an interval into the day and the year (R99) -/

def DayAcc.countClass (cls : PlantClass) (d : DayAcc) : DayAcc :=
  let d := { d with recorded := d.recorded + 1 }
  match cls with
  | .operating => { d with operating := d.operating + 1 }
  | .transition => { d with transition := d.transition + 1 }
  | .standstill => { d with standstill := d.standstill + 1 }

def YearCounters.countClass (cls : PlantClass) (y : YearCounters) : YearCounters :=
  match cls with
  | .operating => y
  | .transition => { y with transition := y.transition + 1 }
  | .standstill => { y with standstill := y.standstill + 1 }

/-- A maximum raised to a value (R99, R104). -/
def raiseMax (m : Option Nat) (v : Nat) : Option Nat :=
  match m with
  | none => some v
  | some x => some (max x v)

/-- V of an assessed interval joins the day of a channel. -/
def DayChan.addValid (v : Nat) (d : DayChan) : DayChan :=
  { d with valid := d.valid + 1, sumV := d.sumV + v }

def DayChan.takeClass (cls : IntervalClass) (v : Nat) (d : DayChan) : DayChan :=
  let d := { d with operating := d.operating + 1 }
  match cls with
  | .below => d.addValid v
  | .band => d.addValid v
  | .above => d.addValid v
  | .invalid _ => { d with invalid := d.invalid + 1 }
  | .notAssessed => d
  | .valid => d

/-- V of an assessed interval joins the year of a channel. -/
def YearChan.addValid (v : Nat) (y : YearChan) : YearChan :=
  { y with valid := y.valid + 1, maxV := raiseMax y.maxV v }

/-- `first` tells whether this is the day's first OPERATING interval. -/
def YearChan.takeClass (first : Bool) (cls : IntervalClass) (v : Nat) (y : YearChan) : YearChan :=
  let y := { y with operating := y.operating + 1
                    operatedDays := if first then y.operatedDays + 1 else y.operatedDays }
  match cls with
  | .below => y.addValid v
  | .band => { y.addValid v with band := y.band + 1 }
  | .above => { y.addValid v with above := y.above + 1 }
  | .invalid _ => { y with invalid := y.invalid + 1 }
  | .notAssessed => y
  | .valid => y

/-- A completed or re-accumulated interval is taken into the day and the year (R99). `chans` gives the
class and V of each POLLUTANT channel. -/
def Engine.takeInterval (img : Image) (iv : StoredInterval) (e : Engine) : Engine :=
  let day := e.day.countClass iv.plantClass
  let year := e.year.countClass iv.plantClass
  let takes := fun (c : Chan) =>
    if iv.plantClass == .operating && (img.chans.get c).isPollutant then iv.chans.get c else none
  let dayChans := Eight.build fun c =>
    match takes c with
    | some (cls, v) => (day.chans.get c).takeClass cls v
    | none => day.chans.get c
  let yearChans := Eight.build fun c =>
    match takes c with
    | some (cls, v) => (year.chans.get c).takeClass ((day.chans.get c).operating == 0) cls v
    | none => year.chans.get c
  { e with day := { day with chans := dayChans }, year := { year with chans := yearChans } }

/-! ## The day close (R102 to R105) -/

/-- The day class of an enabled POLLUTANT channel (R102). -/
def dayClass (st : StationCfg) (unrecorded : Nat) (d : DayChan) : DayClass :=
  let u := if st.countUnrecorded then unrecorded else 0
  if d.operating = 0 then .noOperation
  else if d.invalid + u ≤ st.nInv ∧ 1 ≤ d.valid then .valid
  else .invalid

/-- The day average D (R103). -/
def dayAverage (d : DayChan) : Option Nat :=
  if d.valid = 0 then none else some (roundDiv d.sumV d.valid)

/-- Day class, D and day exceedance of a channel (R102, R103). -/
def dayResult (st : StationCfg) (cfg : ChannelCfg) (unrecorded : Nat) (d : DayChan) : DayResult :=
  let cls := dayClass st unrecorded d
  { cls := cls, average := dayAverage d
    exceeded := cfg.isPollutant && cls == .valid && decide (cfg.limD < (dayAverage d).getD 0) }

/-- A channel's year counters take a closed day (R104). -/
def YearChan.takeDay (r : DayResult) (y : YearChan) : YearChan :=
  match r.cls with
  | .noOperation => y
  | .invalid => { y with invalidDays := y.invalidDays + 1 }
  | .valid =>
    let d := r.average.getD 0
    { y with
      validDays := y.validDays + 1
      sumD := y.sumD + d
      maxD := raiseMax y.maxD d
      dayExceedances := if r.exceeded then y.dayExceedances + 1 else y.dayExceedances }

def dayResults (img : Image) (unrecorded : Nat) (d : DayAcc) : Eight DayResult :=
  Eight.build fun c => dayResult img.station (img.chans.get c) unrecorded (d.chans.get c)

/-- The year counters take the closed day (R102, R104). -/
def YearCounters.takeDay (img : Image) (unrecorded : Nat) (res : Eight DayResult)
    (y : YearCounters) : YearCounters :=
  { y with
    unrecorded := y.unrecorded + unrecorded
    chans := Eight.build fun c =>
      if (img.chans.get c).isPollutant then (y.chans.get c).takeDay (res.get c)
      else y.chans.get c }

/-- The Engine after the close of its held day, and the day record (R102 to R105). A late close leaves
the DAY_EXCEEDANCE cause. -/
def Engine.closeDay (img : Image) (late : Bool) (day : Day) (e : Engine) : Engine × Job :=
  let unrecorded := 48 - e.day.recorded
  let res := dayResults img unrecorded e.day
  let year := e.year.takeDay img unrecorded res
  ({ e with
      year := year, held := some day.next, day := DayAcc.cleared
      dayExceedance := if late then e.dayExceedance else res.any (·.exceeded) },
    .day day (dayRecordBytes img day late e.day unrecorded res year))

/-- The last day of a year closes the year with it (R107). -/
def Day.endsYear (d : Day) : Bool := d.day == lastDayOf d.year

/-- The nine summary records of a year, in order, and the station after them: the archive's counts of
the year and the year counters are cleared (R107 to R109, R137). -/
def closeYear (late : Bool) (year : Nat) (s : State) : State × List Job :=
  let y := s.eng.year
  let head := summaryHeader year s.cfg.station.number late y s.arch.counts.yearDropped s.arch.counts.yearLost
  ({ s with
      eng := { s.eng with year := YearCounters.cleared }
      arch := { s.arch with counts := { s.arch.counts with yearDropped := 0, yearLost := 0 } } },
    .summary year 0 head ::
      allChans.map fun c =>
        .summary year (chanNumber c) (summaryChannel s.cfg c (y.chans.get c)))

/-- The held day closes in its time, and with the last day of a year the year (R101 to R109). -/
def closeHeldDay (s : State) : State :=
  match s.eng.held with
  | none => s
  | some day =>
    let r := s.eng.closeDay s.cfg false day
    let s := submitJob r.2 { s with eng := r.1 }
    if day.endsYear then
      let q := closeYear false day.year s
      submitJobs (q.2 ++ [.yearEnd day.year (nextYear day.year)]) q.1
    else s

/-! ## The end of an interval (R87, R96 to R101) -/

/-- What R99 takes of the results of a completed interval. -/
def storedOf (cls : PlantClass) (chs : Eight (Option ChanResult)) : StoredInterval :=
  { plantClass := cls
    chans := chs.map fun r => r.map fun x => (x.cls, x.validated.getD 0) }

/-- A POLLUTANT channel of the completed interval is ABOVE (R98). -/
def anyAbove (chs : Eight (Option ChanResult)) : Bool :=
  chs.any fun r => match r with
    | some x => x.cls == .above
    | none => false

/-- The interval's end reaches the Engine: the head completes and is removed (R87, R91 to R101). -/
def intervalEnd (s : State) : State :=
  match s.eng.intervals with
  | ⟨stamp, switched, some notice⟩ :: rest =>
    let acc := s.eng.acc
    let cls := plantClass s.cfg.station.pOp acc.minutes acc.operating acc.transition
    let chs := chanResults s.cfg cls switched acc
    let s := submitJob (.interval stamp (intervalRecord stamp cls notice acc chs)) s
    let s := submitFrame
      (buildFrame 2 0 (summaryPayload stamp cls (stationFlags notice acc.unknown) chs)) s
    let s := { s with
      eng := { s.eng.takeInterval s.cfg (storedOf cls chs) with exceedance := anyAbove chs } }
    let s := if stamp.index = 47 ∧ s.eng.held = some stamp.toDay then closeHeldDay s else s
    { s with eng := { s.eng with intervals := rest, acc := IntervalAcc.cleared } }
  | _ => s

/-- A resolved minute reaches the Engine (R90). -/
def engineTake (st : PlantState) (results : Eight (Option MinuteResult)) (s : State) : State :=
  { s with eng := { s.eng with acc := s.eng.acc.take s.cfg st results } }

end Sys2Proof.Machine
end

