-- ==== Sys2Proof/Machine/Normalize.lean ====
section
/-! DEFINITION. The Normalizer (spec/05): the correction of a pollutant minute value to the reference
state. -/

namespace Sys2Proof.Machine

/-- The values a minute's references contribute to one channel (R62, R72). -/
structure RefValues where
  t : Option Int
  p : Option Int
  h : Option Int
  o2 : Option Int
  deriving DecidableEq, Repr

/-- What the Normalizer makes of a VALID pollutant result (R83). -/
structure Normalized where
  value : Nat
  sat : Bool
  hClamp : Bool
  o2Cap : Bool
  deriving DecidableEq, Repr

/-- The clamped reference values of R73; a reference not taken stands at its lower limit. -/
def clampT (x : Option Int) : Int := clampInt (-40000) 600000 (x.getD (-40000))
def clampP (x : Option Int) : Nat := (clampInt 800000 1200000 (x.getD 800000)).toNat
def clampH (x : Option Int) : Nat := (clampInt 0 40000 (x.getD 0)).toNat
def clampO2 (x : Option Int) : Nat := (clampInt 0 21000 (x.getD 0)).toNat

/-- h lies outside its range (R73). -/
def hOutside (x : Option Int) : Bool :=
  match x with
  | some h => decide (h < 0) || decide (40000 < h)
  | none => false

/-- F_T (R74). -/
def factorT (t : Int) : Nat := roundDiv (1000000 * (273150 + t).toNat) 273150

/-- F_p (R75). -/
def factorP (p : Nat) : Nat := roundDiv (1000000 * 1013250) p

/-- F_h (R76). -/
def factorH (h : Nat) : Nat := roundDiv (1000000 * 100000) (100000 - h)

/-- O2d before the cap (R77). -/
def dryO2 (wet : Bool) (o2 h : Nat) : Nat :=
  if wet then roundDiv (o2 * 100000) (100000 - h) else o2

/-- F_O2 with O2d capped (R78, R79). -/
def factorO2 (o2Ref o2d : Nat) : Nat := roundDiv (1000000 * (21000 - o2Ref)) (21000 - o2d)

/-- h is a needed reference: for DRY, or for a WET oxygen source (R54). -/
def ChannelCfg.needsH (c : ChannelCfg) : Bool := c.basisDry || (c.basisO2 && c.o2Wet)

/-- One step of the chain, rounded and limited (R80, R81). -/
def chainStep (made : Bool) (factor : Nat) (x : Nat × Bool) : Nat × Bool :=
  if made then
    let c := roundDiv (x.1 * factor) 1000000
    if 9999999 ≤ c then (9999999, true) else (c, x.2)
  else x

/-- The correction of a calibrated value: T, then p, then DRY, then O2 (R80). -/
def normalize (cfg : ChannelCfg) (o2Cap : Nat) (m : Nat) (r : RefValues) : Normalized :=
  let h := clampH r.h
  let o2d := dryO2 cfg.o2Wet (clampO2 r.o2) h
  let x := chainStep cfg.basisT (factorT (clampT r.t)) (m, false)
  let x := chainStep cfg.basisP (factorP (clampP r.p)) x
  let x := chainStep cfg.basisDry (factorH h) x
  let x := chainStep cfg.basisO2 (factorO2 cfg.o2Ref (min o2d o2Cap)) x
  { value := x.1, sat := x.2, hClamp := cfg.needsH && hOutside r.h,
    o2Cap := cfg.basisO2 && decide (o2Cap < o2d) }

/-- A channel's result as the Normalizer hands it on (R70, R82, R83): a VALID result of an enabled
POLLUTANT channel takes its normalized value and flags. -/
def normalizeResult (cfg : ChannelCfg) (o2Cap : Nat) (refs : RefValues) (r : MinuteResult) :
    MinuteResult :=
  if cfg.isPollutant && r.status == .valid then
    let n := normalize cfg o2Cap (r.value.getD 0).toNat refs
    { r with
      norm := some n.value
      flags := { r.flags with sat := r.flags.sat || n.sat, hClamp := n.hClamp, o2Cap := n.o2Cap } }
  else { r with norm := none }

end Sys2Proof.Machine
end

