-- ==== Sys2Proof/Machine/Exchange.lean ====
section
/-! DEFINITION. The Reference Exchange (spec/04): publication, the values taken from MINUTE frames, the
pending minute list and resolution. -/

namespace Sys2Proof.Machine

/-! ## Roles (R54) -/

/-- The sources of the references a channel's basis needs (R54). -/
def ChannelCfg.sources (c : ChannelCfg) : List RefSource :=
  if c.isPollutant then
    (if c.basisT then [c.srcT] else []) ++ (if c.basisP then [c.srcP] else []) ++
      (if c.needsH then [c.srcH] else []) ++ (if c.basisO2 then [c.srcO2] else [])
  else []

/-- Some enabled POLLUTANT channel needs a source. -/
def Image.needs (img : Image) (src : RefSource) : Bool :=
  img.chans.any fun c => c.sources.contains src

/-- The value entry at a place (from 0) is in the needed remote set (R54). -/
def Image.needsEntry (img : Image) (place : Nat) : Bool := img.needs (.subscription (place + 1))

/-- A local channel has a local reference record (R55). -/
def Image.needsLocal (img : Image) (c : Chan) : Bool := img.needs (.local_ c)

/-! ## Publication (R51) -/

/-- The entries of a station's own MINUTE frame. -/
def publishedEntries (img : Image) (results : Eight (Option MinuteResult)) : List MinuteEntry :=
  allChans.filterMap fun c =>
    if (img.chans.get c).enable && (img.chans.get c).publish then
      (results.get c).map fun r => ⟨chanNumber c, r.status, r.value⟩
    else none

/-- The MINUTE frame of a minute close is built and submitted (R25, R51). -/
def publishMinute (stamp : MStamp) (state : PlantState) (results : Eight (Option MinuteResult))
    (s : State) : State :=
  let entries := publishedEntries s.cfg results
  if entries.isEmpty then s
  else
    submitFrame (buildFrame 1 0 (minutePayload
      ⟨stamp, if s.cfg.plantSource.isSome then .unknown else state, entries⟩)) s

/-! ## Resolution (R62 to R66) -/

/-- Outcome and age of a reference at a resolution (R62). -/
def judgeRef (fresh hasLast : Bool) (age hold : Nat) : RefOutcome × Nat :=
  if fresh then (.fresh, 0)
  else
    let age := satInc 255 age
    if hasLast && decide (age ≤ hold) then (.held, age) else (.lost, age)

/-- A FRESH value becomes the last-valid value when it is later (R62). -/
def freshLast (stamp : MStamp) (value : Int) (last : Option LastValid) : Option LastValid :=
  match last with
  | none => some ⟨stamp, value⟩
  | some l => if l.stamp.before stamp then some ⟨stamp, value⟩ else some l

/-- The value a reference contributes by its outcome (R62). -/
def contribution (outcome : RefOutcome) (fresh : Option Int) (last : Option LastValid) : Option Int :=
  match outcome with
  | .fresh => fresh
  | .held => last.map (·.value)
  | _ => none

/-- The value of a capture whose status is VALID. -/
def Capture.fresh (c : Option Capture) : Option Int :=
  match c with
  | some ⟨some v, .valid⟩ => some v
  | _ => none

/-- The value of a local channel's VALID result (R62). -/
def localFresh (r : Option MinuteResult) : Option Int :=
  match r with
  | some r => if r.status = .valid then r.value else none
  | none => none

def ValueEntry.resolve (stamp : MStamp) (fresh : Option Int) (hold : Nat) (e : ValueEntry) :
    ValueEntry :=
  let j := judgeRef fresh.isSome e.lastValid.isSome e.age hold
  { e with
    outcome := j.1, age := j.2
    lastValid := match fresh with
      | some v => freshLast stamp v e.lastValid
      | none => e.lastValid
    lost := if j.1 = .lost then count16 e.lost else e.lost }

def LocalRecord.resolve (stamp : MStamp) (fresh : Option Int) (hold : Nat) (e : LocalRecord) :
    LocalRecord :=
  let j := judgeRef fresh.isSome e.lastValid.isSome e.age hold
  { e with
    outcome := j.1, age := j.2
    lastValid := match fresh with
      | some v => freshLast stamp v e.lastValid
      | none => e.lastValid
    lost := if j.1 = .lost then count16 e.lost else e.lost }

/-- A captured plant state that counts as VALID (R53). -/
def plantFresh (cap : Option PlantState) : Option PlantState :=
  match cap with
  | some .unknown => none
  | x => x

def PlantEntry.resolve (stamp : MStamp) (fresh : Option PlantState) (hold : Nat) (e : PlantEntry) :
    PlantEntry :=
  let j := judgeRef fresh.isSome e.lastValid.isSome e.age hold
  { e with
    outcome := j.1, age := j.2
    lastValid := match fresh, e.lastValid with
      | some st, none => some ⟨stamp, st⟩
      | some st, some l => if l.stamp.before stamp then some ⟨stamp, st⟩ else some l
      | none, l => l
    lost := if j.1 = .lost then count16 e.lost else e.lost }

/-- The plant state of a minute by the outcome of the plant-state entry (R26). -/
def PlantEntry.minuteState (fresh : Option PlantState) (e : PlantEntry) : PlantState :=
  match e.outcome with
  | .fresh => fresh.getD .unknown
  | .held => (e.lastValid.map (·.state)).getD .unknown
  | _ => .unknown

/-- The value entries after a resolution (R62); the captures run along them. -/
def resolveEntries (stamp : MStamp) (hold : Nat) : List (Option Capture) → List ValueEntry →
    List ValueEntry
  | _, [] => []
  | [], e :: es => e.resolve stamp none hold :: resolveEntries stamp hold [] es
  | c :: cs, e :: es => e.resolve stamp (Capture.fresh c) hold :: resolveEntries stamp hold cs es

/-- The outcome and the contributed value of a source in a minute just resolved (R62). -/
def Exchange.reference (ex : Exchange) (pm : PendingMinute) : RefSource → RefOutcome × Option Int
  | .none => (.none, none)
  | .local_ c =>
    let r := ex.locals.get c
    (r.outcome, contribution r.outcome (localFresh (pm.results.get c)) r.lastValid)
  | .subscription n =>
    match ex.entries[n - 1]? with
    | some e =>
      (e.outcome, contribution e.outcome (Capture.fresh ((pm.caps[n - 1]?).getD none)) e.lastValid)
    | none => (.none, none)

/-- A result judged against the outcomes of the channel's needed references (R63). -/
def judgeResult (cfg : ChannelCfg) (outcome : RefSource → RefOutcome) (r : MinuteResult) :
    MinuteResult :=
  if r.status = .valid then
    if cfg.sources.any (fun s => outcome s == .lost) then { r with status := .invalid .refLost }
    else if cfg.sources.any (fun s => outcome s == .held) then
      { r with flags := { r.flags with held := true } }
    else r
  else r

/-- The values the references of a channel contribute (R63, R72). -/
def channelRefs (cfg : ChannelCfg) (value : RefSource → Option Int) : RefValues :=
  { t := value cfg.srcT, p := value cfg.srcP, h := value cfg.srcH, o2 := value cfg.srcO2 }

/-- The results of a resolved minute, judged and normalized (R63, R70). -/
def resolvedResults (img : Image) (ex : Exchange) (pm : PendingMinute) :
    Eight (Option MinuteResult) :=
  Eight.build fun c =>
    let cfg := img.chans.get c
    (pm.results.get c).map fun r =>
      normalizeResult cfg img.station.o2Cap (channelRefs cfg fun s => (ex.reference pm s).2)
        (judgeResult cfg (fun s => (ex.reference pm s).1) r)

/-- A source moves to or from LOST at a resolution (R66). -/
def refMoved (old new : RefOutcome) : Bool := (old == .lost) != (new == .lost)

/-- The value entries' events: each needed entry that moved and has none yet in this interval takes
its mark (R66). The list runs along the subscription pairs. -/
def entryEvents (img : Image) (stamp : MStamp) : Nat → List SubPair → List ValueEntry →
    List ValueEntry → List ValueEntry × List (List Byte)
  | place, p :: ps, old :: olds, new :: news =>
    let r := entryEvents img stamp (place + 1) ps olds news
    if img.needsEntry place && refMoved old.outcome new.outcome && !new.eventMark then
      ({ new with eventMark := true } :: r.1, refStateSub stamp p new.outcome :: r.2)
    else (new :: r.1, r.2)
  | _, _, _, news => (news, [])

/-- A local record moved and has no event yet in this interval (R66). -/
def localMoves (img : Image) (old new : Eight LocalRecord) (c : Chan) : Bool :=
  img.needsLocal c && refMoved (old.get c).outcome (new.get c).outcome && !(new.get c).eventMark

def localEvents (img : Image) (stamp : MStamp) (old new : Eight LocalRecord) : List (List Byte) :=
  (allChans.filter (localMoves img old new)).map fun c => refStateLocal stamp c (new.get c).outcome

def markLocals (img : Image) (old new : Eight LocalRecord) : Eight LocalRecord :=
  Eight.build fun c =>
    if localMoves img old new c then { new.get c with eventMark := true } else new.get c

/-- The outcomes of a minute (R62): every entry, the plant-state entry when named, every local
record. -/
def Exchange.judgeMinute (img : Image) (pm : PendingMinute) (ex : Exchange) : Exchange :=
  let hold := img.station.holdH
  { ex with
    entries := resolveEntries pm.stamp hold pm.caps ex.entries
    plant :=
      if img.plantSource.isSome then ex.plant.resolve pm.stamp (plantFresh pm.plantCap) hold
      else ex.plant
    locals := Eight.build fun c =>
      if img.needsLocal c then
        (ex.locals.get c).resolve pm.stamp (localFresh (pm.results.get c)) hold
      else ex.locals.get c }

/-- The REF_LOST cause after a resolution (R65). -/
def Exchange.anyLost (img : Image) (ex : Exchange) : Bool :=
  (withPlaces 0 ex.entries).any (fun p => img.needsEntry p.1 && p.2.outcome == .lost) ||
    allChans.any fun c => img.needsLocal c && (ex.locals.get c).outcome == .lost

/-- The plant state of a resolved minute (R24, R26). -/
def minutePlant (img : Image) (ex : Exchange) (pm : PendingMinute) : PlantState :=
  if img.plantSource.isSome then ex.plant.minuteState (plantFresh pm.plantCap)
  else pm.localState.getD .unknown

/-- The exchange's own state after a minute resolves (R63): last minutes, history, the minute gone. -/
def Exchange.leave (pm : PendingMinute) (results : Eight (Option MinuteResult)) (rest : List PendingMinute)
    (ex : Exchange) : Exchange :=
  { ex with
    lastMinute := Eight.build fun c =>
      match results.get c with
      | some r => some ⟨r.status, r.flags⟩
      | none => ex.lastMinute.get c
    history := (pm.stamp :: ex.history).take 6
    minutes := rest }

/-- Event records submitted one after another. -/
def submitEvents : List (List Byte) → State → State
  | [], s => s
  | e :: es, s => submitEvents es (submitEvent e s)

/-- The head of the list resolves and leaves it; the end of its interval follows it (R62 to R66). -/
def resolveHead (s : State) : State :=
  match s.exch.minutes with
  | [] => s
  | pm :: rest =>
    let old := s.exch
    let judged := old.judgeMinute s.cfg pm
    let r := entryEvents s.cfg pm.stamp 0 s.cfg.subs old.entries judged.entries
    let events := r.2 ++ localEvents s.cfg pm.stamp old.locals judged.locals
    let results := resolvedResults s.cfg judged pm
    let ex := { judged with
      entries := r.1, locals := markLocals s.cfg old.locals judged.locals
      refLost := judged.anyLost s.cfg }
    let s := submitEvents events { s with exch := ex.leave pm results rest }
    let s := engineTake (minutePlant s.cfg judged pm) results s
    if pm.last then intervalEnd s else s

/-! ## The pending minute list (R58, R59, R61) -/

/-- A capture holds a VALID value. -/
def Capture.isValid (c : Option Capture) : Bool :=
  match c with
  | some x => x.status == .valid
  | none => false

/-- A pending minute is complete (R59). -/
def PendingMinute.complete (img : Image) (pm : PendingMinute) : Bool :=
  ((withPlaces 0 pm.caps).all fun p => !img.needsEntry p.1 || Capture.isValid p.2) &&
    (img.plantSource.isNone || (plantFresh pm.plantCap).isSome)

/-- The head resolves when it is complete or its deadline mark is set; then the next is tested. The
list holds at most two minutes, so three turns suffice. -/
def settleWith : Nat → State → State
  | 0, s => s
  | n + 1, s =>
    match s.exch.minutes with
    | [] => s
    | pm :: _ =>
      if pm.complete s.cfg || pm.deadlineMark then settleWith n (resolveHead s) else s

def settle (s : State) : State := settleWith 3 s

/-- The captures of an entering minute from the latest slots (R58). -/
def entryCaptures (img : Image) (stamp : MStamp) (entries : List ValueEntry) :
    List (Option Capture) :=
  (withPlaces 0 entries).map fun p =>
    match p.2.latest with
    | some l =>
      if img.needsEntry p.1 && l.stamp == stamp then some ⟨l.value, l.status⟩ else none
    | none => none

def plantCapture (img : Image) (stamp : MStamp) (e : PlantEntry) : Option PlantState :=
  match e.latest with
  | some l => if img.plantSource.isSome && l.stamp == stamp then some l.state else none
  | none => none

/-- A minute as it enters the list (R58). -/
def newPending (stamp : MStamp) (state : PlantState) (results : Eight (Option MinuteResult))
    (last : Bool) (s : State) : PendingMinute :=
  { stamp := stamp, results := results
    localState := if s.cfg.plantSource.isSome then none else some state
    deadline := some s.cfg.station.waitW, deadlineMark := false
    caps := entryCaptures s.cfg stamp s.exch.entries
    plantCap := plantCapture s.cfg stamp s.exch.plant, last := last }

/-- Forced resolution when the list holds two minutes (R61). -/
def forceHead (s : State) : State :=
  if 2 ≤ s.exch.minutes.length then settle (resolveHead s) else s

/-- A closed minute enters the list (R58). -/
def enterMinute (stamp : MStamp) (state : PlantState) (results : Eight (Option MinuteResult))
    (last : Bool) (s : State) : State :=
  let s := forceHead s
  settle { s with exch :=
    { s.exch with minutes := s.exch.minutes ++ [newPending stamp state results last s] } }

/-- The latest minute of an interval takes the last mark; `false` when none is pending (R64). -/
def markLast (stamp : IStamp) : List PendingMinute → Bool × List PendingMinute
  | [] => (false, [])
  | pm :: rest =>
    let r := markLast stamp rest
    if r.1 then (true, pm :: r.2)
    else if pm.stamp.interval = stamp then (true, { pm with last := true } :: r.2)
    else (false, pm :: r.2)

/-- The end of a recorded interval whose open minute was discarded (R64). -/
def endWithoutMinute (stamp : IStamp) (s : State) : State :=
  let r := markLast stamp s.exch.minutes
  if r.1 then { s with exch := { s.exch with minutes := r.2 } } else intervalEnd s

/-- The per-interval marks of R66 are cleared. -/
def clearEventMarks (ex : Exchange) : Exchange :=
  { ex with
    entries := ex.entries.map fun e => { e with eventMark := false }
    locals := ex.locals.map fun e => { e with eventMark := false } }

/-! ## Receiving minute values (R56, R57, R60) -/

/-- The classes of R57. -/
inductive Arrival where
  | matching | early | late
  deriving DecidableEq, Repr

def Exchange.arrival (ex : Exchange) (stamp : MStamp) : Arrival :=
  if ex.minutes.any fun m => m.stamp == stamp then .matching
  else if (ex.minutes.all fun m => m.stamp.before stamp) &&
      (match ex.history.head? with
        | some r => r.before stamp
        | none => true) then .early
  else .late

/-- The age a new last-valid value takes (R60). -/
def Exchange.ageOf (ex : Exchange) (stamp : MStamp) : Nat :=
  ex.history.countP fun h => stamp.before h

/-- A latest slot takes a value that is later than its own (R57). -/
def newerThan (stamp : MStamp) (held : Option MStamp) : Bool :=
  match held with
  | none => true
  | some h => h.before stamp

/-- A value entry takes a value (R57, R60). -/
def ValueEntry.take (arrival : Arrival) (age : Nat) (stamp : MStamp) (value : Option Int)
    (status : MinuteStatus) (e : ValueEntry) : ValueEntry :=
  let e := if newerThan stamp (e.latest.map (·.stamp)) then
    { e with latest := some ⟨stamp, value, status⟩ } else e
  let e := if arrival = .late then { e with late := count16 e.late } else e
  match status, value with
  | .valid, some v =>
    if newerThan stamp (e.lastValid.map (·.stamp)) then
      { e with lastValid := some ⟨stamp, v⟩, age := age } else e
  | _, _ => e

/-- The plant-state entry takes a state (R53, R57, R60). -/
def PlantEntry.take (arrival : Arrival) (age : Nat) (stamp : MStamp) (state : PlantState)
    (e : PlantEntry) : PlantEntry :=
  let e := if newerThan stamp (e.latest.map (·.stamp)) then
    { e with latest := some ⟨stamp, state⟩ } else e
  let e := if arrival = .late then { e with late := count16 e.late } else e
  if state ≠ .unknown && newerThan stamp (e.lastValid.map (·.stamp)) then
    { e with lastValid := some ⟨stamp, state⟩, age := age } else e

/-- A value is captured into the pending minute of its stamp for a needed entry (R57, R58). -/
def captureValue (img : Image) (place : Nat) (stamp : MStamp) (cap : Capture)
    (minutes : List PendingMinute) : List PendingMinute :=
  if img.needsEntry place then
    minutes.map fun m =>
      if m.stamp = stamp then { m with caps := updateAt (fun _ => some cap) place m.caps } else m
  else minutes

/-- The value entry at a place takes a value; the minute it belongs to is tested (R57, R59). -/
def takeValue (place : Nat) (stamp : MStamp) (value : Option Int) (status : MinuteStatus)
    (s : State) : State :=
  let ex := s.exch
  let entries :=
    updateAt (ValueEntry.take (ex.arrival stamp) (ex.ageOf stamp) stamp value status) place
      ex.entries
  settle { s with exch :=
    { ex with
      entries := entries
      minutes := captureValue s.cfg place stamp ⟨value, status⟩ ex.minutes } }

/-- The plant-state entry takes a state (R53, R57, R59). -/
def takePlant (stamp : MStamp) (state : PlantState) (s : State) : State :=
  let ex := s.exch
  settle { s with exch :=
    { ex with
      plant := ex.plant.take (ex.arrival stamp) (ex.ageOf stamp) stamp state
      minutes := ex.minutes.map fun m =>
        if m.stamp = stamp then { m with plantCap := some state } else m } }

/-- One entry of a MINUTE frame is taken by the value entry of its pair (R56). -/
def takeEntry (source : Nat) (stamp : MStamp) (s : State) (e : MinuteEntry) : State :=
  match s.cfg.subs.findIdx? fun p => p.station == source && p.channel == e.channel with
  | some place => takeValue place stamp e.value e.status s
  | none => s

/-- The values of a MINUTE frame are taken in the frame's order, the plant state last (R56;
DESIGN CHOICE, log 15). -/
def takeMinute (source : Nat) (m : MinuteMsg) (s : State) : State :=
  let s := m.entries.foldl (takeEntry source m.stamp) s
  if s.cfg.plantSource = some source then takePlant m.stamp m.state s else s

/-- MINUTE_DEADLINE_EXPIRY (R58, R59): the deadline mark is set and the head is tested. -/
def execMinuteDeadlineExpiry (place : Nat) (s : State) : Host.Outcome State Fault Refusal :=
  match s.exch.minutes[place]? with
  | some pm =>
    if pm.deadline.isSome then
      .next (settle { s with exch := { s.exch with
        minutes :=
          updateAt (fun m => { m with deadline := none, deadlineMark := true }) place
            s.exch.minutes } })
    else .next s
  | none => .next s

end Sys2Proof.Machine
end

