-- ==== Sys2Proof/Machine/Plant.lean ====
section
/-! DEFINITION. The Input Filter (spec/02): filtering of the status inputs and the local plant
state. -/

namespace Sys2Proof.Machine

/-- The path a ready input belongs to (R23). -/
def readyPath : StatusInput → Option Path
  | .rdy1 => some .one
  | .rdy2 => some .two
  | _ => none

/-- A filtered level takes a raw level (R21); a ready input becoming active reaches the Check
Sequencer (R23, R125). -/
def setLevel (i : StatusInput) (level : Bool) (s : State) : State :=
  let old := s.filter.level.get i
  let s := { s with filter := { s.filter with level := s.filter.level.set i level } }
  match readyPath i with
  | some p => if level && !old then readyActive p s else s
  | none => s

def setFilterTimer (i : StatusInput) (t : Timer) (s : State) : State :=
  { s with filter := { s.filter with timer := s.filter.timer.set i t } }

/-- The local plant state of R24. -/
def State.localPlant (s : State) : PlantState :=
  if s.filter.level.feed then .operating
  else if s.filter.level.burner then .transition
  else .standstill

/-- A raw edge while the filter works (R21). -/
def filterEdge (i : StatusInput) (level : Bool) (s : State) : State :=
  if level = s.filter.level.get i then setFilterTimer i none s
  else if s.cfg.station.filterSteps.get i = 0 then setLevel i level (setFilterTimer i none s)
  else setFilterTimer i (some (100 * s.cfg.station.filterSteps.get i)) s

/-- STATUS_INPUT_EDGE (R20, R21): the raw level follows the pin; the filter acts once it works. -/
def execStatusInputEdge (i : StatusInput) (level : Bool) (s : State) :
    Host.Outcome State Fault Refusal :=
  let s := { s with pins := { s.pins with raw := s.pins.raw.set i level } }
  if s.filtering then .next (filterEdge i level s) else .next s

/-- FILTER_TIMER_EXPIRY (R21): the filtered level takes the raw level. -/
def execFilterTimerExpiry (i : StatusInput) (s : State) : Host.Outcome State Fault Refusal :=
  match s.filter.timer.get i with
  | some _ => .next (setLevel i (s.pins.raw.get i) (setFilterTimer i none s))
  | none => .next s

end Sys2Proof.Machine
end

