-- ==== Sys2Proof/Machine/Samples.lean ====
section
/-! DEFINITION. The Sample Port (spec/01): sample words, minute results, the opening and the close of a
minute, the calibration switch. -/

namespace Sys2Proof.Machine

/-! ## Taking a word (R3 to R5, R200) -/

/-- The channel a sample word names: bits 20..18 hold the channel less one (R200). -/
def wordChannel (w : BitVec 24) : Chan := (w.extractLsb' 18 3).toFin

/-- The converter status: 0 OK, 1 MAINT, 2 FAULT, 3 OVER (R200). -/
def wordStatus (w : BitVec 24) : Nat := (w.extractLsb' 16 2).toNat

def wordCode (w : BitVec 24) : Nat := (w.extractLsb' 0 16).toNat

/-- A word that passes tests 1 and 2 of R3 raises the received-word count (R5). -/
def MinuteAcc.countWord (a : MinuteAcc) : MinuteAcc := { a with words := satInc 255 a.words }

/-- A word is accumulated by its converter status (R5). -/
def MinuteAcc.accumulate (st code : Nat) (a : MinuteAcc) : MinuteAcc :=
  match st with
  | 1 => { a with maint := satInc 255 a.maint }
  | 2 => { a with fault := satInc 255 a.fault }
  | _ =>
    let a := { a with overRange := a.overRange || st == 3 }
    if a.n < 120 then { a with n := a.n + 1, sum := a.sum + code } else { a with sat := true }

/-- A word is excluded by check (R4). -/
def MinuteAcc.exclude (a : MinuteAcc) : MinuteAcc := { a with excluded := satInc 255 a.excluded }

/-- The channel's path is in MEASURE and the channel is measured (R4, R118). -/
def State.measuring (s : State) (c : Chan) : Bool :=
  match s.chk.current with
  | some ⟨pair, .measure _⟩ => (s.cfg.measuredChans pair).contains c
  | _ => false

/-- The word of an enabled channel while RECORDING (R3, tests 3 and 4). -/
def takeWord (c : Chan) (st code : Nat) (s : State) : State :=
  if s.underCheck c then
    let s := { s with port := { s.port with
      acc := s.port.acc.modify c fun a => a.countWord.exclude } }
    if s.measuring c then
      { s with chk := { s.chk with acc := s.chk.acc.modify c (CheckAcc.take st code) } }
    else s
  else
    { s with port := { s.port with
      acc := s.port.acc.modify c fun a => a.countWord.accumulate st code } }

/-- SAMPLE_WORD (R3): discarded unless RECORDING and its channel enabled. -/
def execSampleWord (w : BitVec 24) (s : State) : Host.Outcome State Fault Refusal :=
  if s.recording && (s.cfg.chans.get (wordChannel w)).enable then
    .next (takeWord (wordChannel w) (wordStatus w) (wordCode w) s)
  else .next s

/-- SAMPLE_FRAME_ABORT (R1, R200): the frame is discarded and changes no state. -/
def execSampleFrameAbort (s : State) : Host.Outcome State Fault Refusal := .next s

/-! ## Minute results (R11 to R18) -/

/-- The low limit of a kind (R12). -/
def lowLimit : Kind → Int
  | .temperature => -40000
  | _ => 0

/-- The status of a minute at its close (R15, R16). -/
def minuteStatus (sMin : Nat) (locked : Bool) (a : MinuteAcc) : MinuteStatus :=
  if locked then .invalid .drift
  else if sMin ≤ a.n then .valid
  else if a.checked then .invalid .check
  else if 1 ≤ a.fault then .invalid .fault
  else if 1 ≤ a.maint then .invalid .maint
  else .invalid .few

/-- The calibrated value before the limits of R12; absent without a sample (R11). -/
def rawValue (cal : CalSet) (a : MinuteAcc) : Option Int :=
  if a.n = 0 then none else some (calibrate cal a.n a.sum)

/-- The result of a channel's minute (R11 to R18); `full` tells whether the minute ran 60,000 ms. -/
def minuteResult (cfg : ChannelCfg) (cal : CalSet) (locked full : Bool) (a : MinuteAcc) :
    MinuteResult :=
  let raw := rawValue cal a
  { n := a.n
    value := raw.map (clampInt (lowLimit cfg.kind) 9999999)
    norm := none
    status := minuteStatus cfg.sMin locked a
    flags :=
      { MFlags.none with
        overRange := a.overRange
        sat := a.sat || raw.any fun x => decide (9999999 < x)
        clampLow := raw.any fun x => decide (x < lowLimit cfg.kind)
        lowRate := full && decide (a.words < cfg.expected)
        part := !full }
    maint := a.maint, fault := a.fault, excluded := a.excluded }

/-- The results of the enabled channels at a minute close (R10). -/
def minuteResults (full : Bool) (s : State) : Eight (Option MinuteResult) :=
  Eight.build fun c =>
    if (s.cfg.chans.get c).enable then
      some (minuteResult (s.cfg.chans.get c) (s.calSet c) (s.chk.drift.get c).locked full
        (s.port.acc.get c))
    else none

/-! ## Opening and closing minutes (R6 to R10) -/

/-- The accumulators at a minute's opening, the CHECKED mark of R7 with them. -/
def openedAccs (s : State) : Eight MinuteAcc :=
  Eight.build fun c =>
    { MinuteAcc.cleared with checked := (s.cfg.chans.get c).enable && s.underCheck c }

/-- A minute opens (R6). -/
def openMinute (slot start : Nat) (s : State) : State :=
  { s with port := { s.port with openMin := some ⟨slot, start⟩, acc := openedAccs s } }

/-- A minute closes: its results are published and enter the pending list (R10, R51, R58). -/
def closeMinute (stamp : IStamp) (slot : Nat) (full last : Bool) (s : State) : State :=
  let results := minuteResults full s
  let state := s.localPlant
  enterMinute ⟨stamp, slot⟩ state results last
    (publishMinute ⟨stamp, slot⟩ state results s)

/-- The minute that is open at a boundary closes and the next slot opens (R8). -/
def boundaryMinute (clock : Nat) (s : State) : State :=
  if s.recording then
    match s.port.openMin, s.mark.calendar with
    | some o, some stamp =>
      openMinute (o.slot + 1) clock (closeMinute stamp o.slot true false s)
    | _, _ => s
  else s

/-- The open minute at a recorded interval's close (R9, R64): closed as the last minute, or, of zero
length, discarded. -/
def closeLastMinute (stamp : IStamp) (clock : Nat) (s : State) : State :=
  match s.port.openMin with
  | some o =>
    if clock - o.start = 0 then endWithoutMinute stamp s
    else closeMinute stamp o.slot (decide (60000 ≤ clock - o.start)) true s
  | none => endWithoutMinute stamp s

/-! ## The calibration switch (R14) -/

/-- The channels that switch to set B at a recorded start. -/
def switchSet (start : IStamp) (s : State) : Eight Bool :=
  Eight.build fun c =>
    let cfg := s.cfg.chans.get c
    cfg.enable && !(s.port.setB.get c) &&
      (match cfg.setB with
        | some b => b.effective.atOrBefore start
        | none => false)

/-- The comparison at a recorded start, with its CAL_SWITCH event (R14). -/
def switchCalibration (start : IStamp) (s : State) : State :=
  let sw := switchSet start s
  let setB := Eight.build fun c => s.port.setB.get c || sw.get c
  let s := { s with port := { s.port with setB := setB } }
  if sw.any id then submitEvent (calSwitchEvent start sw) s else s

end Sys2Proof.Machine
end

