-- ==== Sys2Proof/Machine/Mark.lean ====
section
/-! DEFINITION. The Mark Unit (spec/03): the interval clock, interval closes, the MARK line and the line
status. -/

namespace Sys2Proof.Machine

/-- One full interval (R30). -/
def intervalLength : Nat := 1800000

/-! ## Interval closes (R31, R86) -/

/-- A notice attaches to the tail entry of the interval list (R86). -/
def attachNotice (n : Notice) : List IntervalEntry → List IntervalEntry
  | [] => []
  | [e] => [{ e with notice := some n }]
  | e :: f :: es => e :: attachNotice n (f :: es)

/-- A recorded interval starts (R14, R86, R6, R115): the comparison, the new entry, slot 0, the
schedules. -/
def startInterval (start : IStamp) (s : State) : State :=
  let sw := switchSet start s
  let s := switchCalibration start { s with exch := clearEventMarks s.exch }
  let s := { s with eng := { s.eng with intervals := s.eng.intervals ++ [⟨start, sw, none⟩] } }
  testSchedules start (openMinute 0 0 s)

/-- The close of a recorded interval: the notice, the last minute, then the next start. -/
def closeRecorded (closing start : IStamp) (n : Notice) (s : State) : State :=
  let s := { s with eng := { s.eng with intervals := attachNotice n s.eng.intervals } }
  startInterval start (closeLastMinute closing n.length s)

/-- The close in ALIGNING that makes the station RECORDING (R48, R101). The held day, and with it the
year, closes with its jobs before the comparison of R14 and its CAL_SWITCH event: the spec names no order
here (DESIGN CHOICE, log 16). -/
def closeAligning (closing start : IStamp) (s : State) : State :=
  let s := { s with
    loader := { s.loader with station := .recording }
    mark := { s.mark with sync := .locked, strays := 0 } }
  let s := if closing.index = 47 ∧ s.eng.held = some closing.toDay then closeHeldDay s else s
  startInterval start s

/-- The Mark Unit after a close (R31, R33, R35, R41, R46). -/
def MarkUnit.close (kind : CloseKind) (start : IStamp) (m : MarkUnit) : MarkUnit :=
  { m with
    clock := some 0, boundary := 1, calendar := some start, holdOff := some 1000
    disagreeMark := false
    pulse := if kind = .expiry then some 10 else m.pulse }

/-- The close notice of R31, less its stamps. -/
def closeNotice (kind : CloseKind) (offset : Int) (length : Nat) (stuck : Bool) : Notice :=
  { kind := kind, offset := offset, length := length, short := kind == .realign,
    realigned := kind == .realign, stuck := stuck }

/-- An interval close is taken at a clock value (R31). -/
def closeInterval (kind : CloseKind) (offset : Int) (clock : Nat) (s : State) : State :=
  match s.mark.calendar with
  | none => s
  | some closing =>
    let start := closing.advance
    let n := closeNotice kind offset clock s.mark.stuck
    let s := { s with mark := s.mark.close kind start }
    match s.loader.station with
    | .recording => closeRecorded closing start n s
    | .aligning => closeAligning closing start s
    | _ => s

/-- The kind of the close at own expiry (R32). -/
def expiryKind (s : State) : CloseKind :=
  if s.mark.stuck then .expiry
  else if s.loader.station = .aligning then .expiry
  else if s.mark.sync = .realigning then .silent
  else .expiry

/-- OWN_EXPIRY (R32): the clock has reached 1,800,000. -/
def execOwnExpiry (s : State) : Host.Outcome State Fault Refusal :=
  match s.mark.clock with
  | some _ => .next (closeInterval (expiryKind s) 0 intervalLength s)
  | none => .next s

/-- MINUTE_BOUNDARY (R8, R30): the clock reaches 60,000 × k. -/
def execMinuteBoundary (s : State) : Host.Outcome State Fault Refusal :=
  match s.mark.clock with
  | some _ =>
    if s.mark.boundary ≤ 29 then
      let clock := 60000 * s.mark.boundary
      .next (boundaryMinute clock
        { s with mark := { s.mark with clock := some clock, boundary := s.mark.boundary + 1 } })
    else .next s
  | none => .next s

/-! ## Edges (R34, R37, R38, R48) -/

/-- The signed offset of an edge (R31). -/
def signedOffset (clock : Nat) : Int :=
  if 900000 ≤ clock then (intervalLength : Int) - clock else -(clock : Int)

/-- An edge is accepted: the stray count and the last offset, then the close. -/
def acceptEdge (kind : CloseKind) (clock : Nat) (s : State) : State :=
  closeInterval kind (signedOffset clock) clock
    { s with mark :=
      { s.mark with sync := .locked, strays := 0, lastOffset := some (signedOffset clock) } }

/-- A stray edge (R37). -/
def MarkUnit.stray (k : Nat) (m : MarkUnit) : MarkUnit :=
  let n := m.strays + 1
  { m with strays := n, sync := if n = k then .realigning else m.sync }

/-- An edge that is acted on at a clock value (R37, R38, R48). -/
def actEdge (clock : Nat) (s : State) : State :=
  if s.loader.station = .aligning then acceptEdge .edge clock s
  else
    match s.mark.sync with
    | .realigning => acceptEdge .realign clock s
    | .locked =>
      if 1740000 ≤ clock then acceptEdge .edge clock s
      else { s with mark := s.mark.stray s.cfg.station.strayK }
    | .stopped => s

/-- LOW_CHECK_EXPIRY (R34): MARK is still low, so an edge is taken: acted on while the clock runs, the
line is NORMAL and the hold-off is not running. -/
def execLowCheckExpiry (s : State) : Host.Outcome State Fault Refusal :=
  match s.mark.lowCheck with
  | some _ =>
    let s := { s with mark := { s.mark with lowCheck := none } }
    match s.mark.clock with
    | some clock =>
      if !s.mark.stuck && s.mark.holdOff.isNone then .next (actEdge clock s) else .next s
    | none => .next s
  | none => .next s

/-- HOLD_OFF_EXPIRY (R35). -/
def execHoldOffExpiry (s : State) : Host.Outcome State Fault Refusal :=
  .next { s with mark := { s.mark with holdOff := none } }

/-! ## The MARK line and the line status (R33, R34, R39, R40) -/

/-- MARK_PULSE_END (R33): MARK is released. -/
def execMarkPulseEnd (s : State) : Host.Outcome State Fault Refusal :=
  .next { s with mark := { s.mark with pulse := none } }

/-- The Mark Unit senses a fall (R34, R39, R40). That a fall while STUCK starts no low check, no edge being
taken then, is the model's (DESIGN CHOICE, log 34). -/
def MarkUnit.fall (m : MarkUnit) : MarkUnit :=
  if m.stuck then { m with recovery := none }
  else { m with lowCheck := some 2, stuckTimer := some 100 }

/-- The Mark Unit senses a rise (R34, R39, R40). -/
def MarkUnit.rise (m : MarkUnit) : MarkUnit :=
  { m with lowCheck := none, stuckTimer := none, recovery := if m.stuck then some 100 else none }

/-- MARK_FALL: the line falls; it is sensed from the end of loading on (R34, R39). A fall before that
starts no low check and no 100 ms of R39, then or when loading ends (DESIGN CHOICE, log 43). -/
def execMarkFall (s : State) : Host.Outcome State Fault Refusal :=
  if s.pins.markLow then .next s
  else
    let s := { s with pins := { s.pins with markLow := true } }
    if s.sensing then .next { s with mark := s.mark.fall } else .next s

/-- MARK_RISE: the line rises; it cannot while the station's own pulse drives it. -/
def execMarkRise (s : State) : Host.Outcome State Fault Refusal :=
  if !s.pins.markLow || s.markDriven then .next s
  else
    let s := { s with pins := { s.pins with markLow := false } }
    if s.sensing then .next { s with mark := s.mark.rise } else .next s

/-- MARK_STUCK (R39): MARK has stayed low for 100 ms from a fall. -/
def execMarkStuck (s : State) : Host.Outcome State Fault Refusal :=
  match s.mark.stuckTimer with
  | some _ =>
    .next (submitEvent (markEvent true s.mark.calendar s.clockValue)
      { s with mark := { s.mark with stuck := true, stuckTimer := none, recovery := none } })
  | none => .next s

/-- MARK_NORMAL (R40): MARK has stayed high for 100 ms while STUCK. -/
def execMarkNormal (s : State) : Host.Outcome State Fault Refusal :=
  match s.mark.recovery with
  | some _ =>
    .next (submitEvent (markEvent false s.mark.calendar s.clockValue)
      { s with mark := { s.mark with stuck := false, recovery := none } })
  | none => .next s

end Sys2Proof.Machine
end

