-- ==== Sys2Proof/Machine/Resume.lean ====
section
/-! DEFINITION. Resumption (spec/08, R153 to R155) and the halt it can end in (R49, R192). -/

namespace Sys2Proof.Machine

def setResume (r : Resume) (s : State) : State := { s with arch := { s.arch with resume := r } }

/-- The calendar's current day. -/
def State.today (s : State) : Option Day := s.mark.calendar.map IStamp.toDay

/-! ## Halting (R49, R192) -/

/-- The Mark Unit on entry to HALTED (R49). -/
def MarkUnit.halt (m : MarkUnit) : MarkUnit :=
  { m with pulse := none, clock := none, boundary := 1, sync := .stopped, holdOff := none, strays := 0 }

/-- The station halts with the reason CALENDAR_BEHIND and its event (R153, R192). -/
def haltBehind (openYear : Option Nat) (found : List Byte) (s : State) : State :=
  let s := { s with
    loader := { s.loader with station := .halted, haltReason := some .calendarBehind }
    mark := s.mark.halt
    arch := { s.arch with resume := .off } }
  submitEvent (calendarBehindEvent s.mark.calendar openYear found) s

/-! ## The end of resumption -/

/-- The current day is held and the station enters ALIGNING (R154, R155). -/
def finishResume (s : State) : State :=
  select { s with
    loader := { s.loader with station := .aligning }
    eng := { s.eng with held := s.today }
    arch := { s.arch with resume := .off } }

/-! ## Settling days (R154) -/

/-- A read of resumption in the interval section of the OPEN area. -/
def resumeRead (area : Area) (slot : Nat) (s : State) : State :=
  requestRead ⟨.resume, slotAddr area .interval slot, slotSize .interval⟩ s

/-- The slot of the first interval of a day. -/
def dayFirstSlot (day : Nat) : Nat := (day - 1) * 48

/-- A day is settled (R154): its 48 slots are read into a cleared day accumulator. A day beyond the
OPEN year closes that year late (R155). -/
def settleDay (day : Day) (s : State) : State :=
  match s.arch.openArea, s.mark.calendar with
  | some (i, e), some now =>
    if e.year = some day.year then
      let s := { s with eng := { s.eng with held := some day, day := DayAcc.cleared } }
      resumeRead i (dayFirstSlot day.day) (setResume (.day day 0) s)
    else
      let year := e.year.getD 0
      let r := closeYear true year s
      setResume (.submit (r.2 ++ [.yearEnd year now.year]) none) r.1
  | _, _ => s

/-- Jobs are submitted while the record queue has room (R154). -/
def drainJobs : List Job → State → List Job × State
  | [], s => ([], s)
  | j :: js, s => if s.arch.queue.length < 16 then drainJobs js (submitJob j s) else (j :: js, s)

/-- Late jobs are submitted; when the last has gone, resumption goes on. A day's job can be followed by
the jobs of a late year close, and these by the end, so three turns suffice. -/
def pumpWith : Nat → State → State
  | 0, s => s
  | n + 1, s =>
    match s.arch.resume with
    | .submit jobs next =>
      let r := drainJobs jobs s
      if r.1.isEmpty then
        match next with
        | some day => pumpWith n (settleDay day (setResume .off r.2))
        | none => finishResume r.2
      else setResume (.submit r.1 next) r.2
    | _ => s

def pump (s : State) : State := pumpWith 3 s

/-- The last slot of a day has been read: the current day ends resumption, an earlier one closes
late. -/
def dayRead (day : Day) (s : State) : State :=
  if s.today = some day then finishResume s
  else
    let r := s.eng.closeDay s.cfg true day
    pump (setResume (.submit [r.2] (some day.next)) { s with eng := r.1 })

/-- R154 begins: the year counters are loaded and the first day to settle is found. `none_` tells that
the area is known to hold no committed interval record. -/
def beginSettle (noRecords : Bool) (s : State) : State :=
  match s.arch.openArea, s.mark.calendar, s.arch.lastDay with
  | some (_, e), _, some d =>
    pump (settleDay (Day.mk (e.year.getD 0) d.day).next
      { s with eng := { s.eng with year := readYear s.cfg d.data } })
  | some (i, _), some now, none =>
    let s := { s with eng := { s.eng with year := YearCounters.cleared } }
    if noRecords then pump (settleDay now.toDay s)
    else resumeRead i 0 (setResume (.earliest 0) s)
  | _, _, _ => s

/-! ## The halt tests and the start (R153, R155) -/

/-- The newest CLOSED area with its year; among equal years the lower number (log 29). -/
def newestClosed (t : Areas AreaEntry) : Option (Area × Nat) :=
  allAreas.foldl (fun best i =>
    let e := t.get i
    if e.state = .closed then
      match best with
      | some (_, y) => if y < e.year.getD 0 then some (i, e.year.getD 0) else best
      | none => some (i, e.year.getD 0)
    else best) none

/-- The area an opening takes at resumption with no area OPEN (R155). -/
def openingArea (t : Areas AreaEntry) : Area :=
  match newestClosed t with
  | some (i, _) => nextArea i
  | none => (allAreas.find? fun i => (t.get i).state == .free).getD 0

/-- The first slot resumption has not to go below: the slot after the last day record's day (R153). -/
def State.lowSlot (s : State) : Nat :=
  match s.arch.lastDay with
  | some d => d.day * 48
  | none => 0

/-- Resumption with an OPEN area (R153). -/
def resumeOpen (i : Area) (e : AreaEntry) (now : IStamp) (s : State) : State :=
  let year := e.year.getD 0
  if now.year < year then haltBehind e.year (istampBe none) s
  else if now.year = year then
    match s.arch.lastDay with
    | some d =>
      if now.day ≤ d.day then haltBehind e.year (be 2 year ++ be 2 d.day ++ [0xFF]) s
      else if s.lowSlot ≤ 17567 then resumeRead i 17567 (setResume (.latest 17567) s)
      else beginSettle false s
    | none => resumeRead i 17567 (setResume (.latest 17567) s)
  else beginSettle false s

/-- Resumption with no area OPEN (R153, R155). -/
def resumeClosed (t : Areas AreaEntry) (now : IStamp) (s : State) : State :=
  let behind := match newestClosed t with
    | some (_, y) => decide (now.year ≤ y)
    | none => false
  if behind then haltBehind none (istampBe none) s
  else
    finishResume { s with
      arch := s.arch.makeOpening ⟨openingArea t, now.year⟩
      eng := { s.eng with year := YearCounters.cleared } }

/-- Resumption begins (R138, R153): from here on the record queue is served. -/
def beginResume (s : State) : State :=
  let s := { s with arch := { s.arch with service := true } }
  match s.arch.openArea, s.arch.table, s.mark.calendar with
  | some (i, e), _, some now => select (resumeOpen i e now s)
  | none, some t, some now => resumeClosed t now s
  | _, _, _ => s

/-! ## The reads of resumption -/

/-- A committed interval slot is taken into the held day and the year (R99, R154). -/
def takeStored (bytes : List Byte) (s : State) : State :=
  if slotState bytes = .committed then
    { s with eng := s.eng.takeInterval s.cfg (readInterval bytes) }
  else s

/-- The stamp of an interval slot (R132). -/
def slotStamp (year slot : Nat) : IStamp := ⟨year, slot / 48 + 1, slot % 48⟩

/-- A read of resumption has completed. -/
def resumeReadDone (bytes : List Byte) (s : State) : State :=
  match s.arch.openArea, s.mark.calendar with
  | some (i, e), some now =>
    let year := e.year.getD 0
    match s.arch.resume with
    | .latest slot =>
      if slotState bytes = .committed then
        if now.atOrBefore (slotStamp year slot) then
          haltBehind e.year (istampBe (some (slotStamp year slot))) s
        else beginSettle false s
      else if slot ≤ s.lowSlot then beginSettle true s
      else resumeRead i (slot - 1) (setResume (.latest (slot - 1)) s)
    | .earliest slot =>
      if slotState bytes = .committed then pump (settleDay (slotStamp year slot).toDay s)
      else if slot < 17567 then resumeRead i (slot + 1) (setResume (.earliest (slot + 1)) s)
      else pump (settleDay now.toDay s)
    | .day day index =>
      let s := takeStored bytes s
      if index < 47 then
        resumeRead i (dayFirstSlot day.day + (index + 1)) (setResume (.day day (index + 1)) s)
      else dayRead day s
    | _ => s
  | _, _ => s

/-- RESUME_QUEUE_ROOM (R154): the record queue has room for the next late record. -/
def execResumeQueueRoom (s : State) : Host.Outcome State Fault Refusal := .next (pump s)

end Sys2Proof.Machine
end

