-- ==== Sys2Proof/Machine/Calendar.lean ====
section
/-! DEFINITION. TIME and SUMMARY frames at the Mark Unit (spec/03, R42 to R46). -/

namespace Sys2Proof.Machine

/-- A frame that fails R42. -/
def refuseTime (s : State) : State :=
  { s with mark := { s.mark with refusedTimes := count16 s.mark.refusedTimes } }

/-- The Mark Unit at adoption (R45). -/
def MarkUnit.adopt (calendar : IStamp) (clock : Nat) (m : MarkUnit) : MarkUnit :=
  { m with
    calendar := some calendar, clock := some clock, boundary := clock / 60000 + 1
    sync := .locked, strays := 0, holdOff := some 1000, lastOffset := none }

/-- The calendar is adopted; the station resumes (R43 to R45). -/
def adopt (calendar : IStamp) (clock : Nat) (s : State) : State :=
  beginResume { s with
    mark := s.mark.adopt calendar clock
    loader := { s.loader with station := .resuming } }

/-- A frame disagrees with the calendar (R46). -/
def disagree (kind source : Nat) (stamp : IStamp) (s : State) : State :=
  let marked := s.mark.disagreeMark
  let s := { s with mark :=
    { s.mark with disagreements := count16 s.mark.disagreements, disagreeMark := true } }
  if marked then s
  else submitEvent (disagreeEvent s.mark.calendar kind source stamp s.clockValue) s

/-- A SUMMARY stamp agrees with the current interval (R46). -/
def summaryAgrees (now stamp : IStamp) : Bool := stamp.advance == now || stamp == now

/-- A TIME stamp agrees with the current interval at a clock value (R46). -/
def timeAgrees (now stamp : IStamp) (clock : Nat) : Bool :=
  stamp == now || (stamp == now.advance && decide (1740000 ≤ clock)) ||
    (stamp.advance == now && decide (clock < 60000))

/-- The Mark Unit takes no TIME or SUMMARY frame in these states (R42). -/
def State.disregardsTime (s : State) : Bool :=
  match s.loader.station with
  | .loading => true
  | .mounting => true
  | .halted => true
  | _ => false

/-- A TIME frame at the Mark Unit (R42, R43, R46). -/
def handleTime (f : RxFrame) (s : State) : State :=
  let stamp := readIStamp f.payload 0
  let ms := field f.payload 5 3
  if s.disregardsTime then s
  else if !(stamp.valid && decide (ms ≤ 1799999)) then refuseTime s
  else if s.loader.station = .unsynced then adopt stamp ms s
  else
    match s.mark.calendar with
    | some now =>
      if timeAgrees now stamp s.clockValue then s else disagree 3 f.source.toNat stamp s
    | none => s

/-- A peer's SUMMARY frame at the Mark Unit (R42, R44, R46). -/
def handleSummary (f : RxFrame) (s : State) : State :=
  let stamp := readIStamp f.payload 0
  if s.disregardsTime then s
  else if !stamp.valid then refuseTime s
  else if s.loader.station = .unsynced then adopt stamp.advance 0 s
  else
    match s.mark.calendar with
    | some now => if summaryAgrees now stamp then s else disagree 2 f.source.toNat stamp s
    | none => s

end Sys2Proof.Machine
end

