-- ==== Sys2Proof/Machine/ArchiveRequests.lean ====
section
/-! DEFINITION. RELEASE and FETCH (spec/08, R147 to R151). -/

namespace Sys2Proof.Machine

/-- The order of states in which an area is found by year (R147). -/
def findOrder : List AreaState := [.opened, .closed, .released, .erasing, .foreign]

/-- The area found by year (R147): the states in order, the lower number first. -/
def Archive.findYear (a : Archive) (year : Nat) : Option (Area × AreaEntry) :=
  match a.table with
  | none => none
  | some t =>
    findOrder.findSome? fun st =>
      (allAreas.map fun i => (i, t.get i)).find? fun e =>
        e.2.state == st && e.2.year == some year

def yearInRange (year : Nat) : Bool := decide (2000 ≤ year) && decide (year ≤ 2099)

/-! ## RELEASE (R147) -/

/-- The tests of R147 in their order. -/
def releaseOutcome (year : Nat) (a : Archive) : Reply :=
  if !a.mounted then .busy
  else if a.condition = .fault then .notAvailable
  else if !yearInRange year then .badArgument
  else
    match a.findYear year with
    | none => .notFound
    | some (_, e) =>
      if e.state = .opened ∨ e.state = .released ∨ e.state = .erasing ∨ e.releaseMark = true then
        .wrongState
      else if 3 ≤ a.erases.length then .full
      else if 16 ≤ a.queue.length then .busy
      else .accepted

/-- An accepted RELEASE (R147): the release mark, the marker job, the place on the erase list. -/
def Archive.release (i : Area) (a : Archive) : Archive :=
  let a := a.setArea i fun e => { e with releaseMark := true }
  { a with queue := a.queue ++ [.released i], erases := a.erases ++ [⟨i, 1⟩] }

def handleRelease (f : RxFrame) (s : State) : State :=
  let year := field f.payload 0 2
  match releaseOutcome year s.arch, s.arch.findYear year with
  | .accepted, some (i, _) => answer 12 f .accepted (select { s with arch := s.arch.release i })
  | outcome, _ => answer 12 f outcome s

/-! ## FETCH (R148 to R151) -/

/-- The tests of R149 in their order; `accepted` stands for the fetch becoming active. -/
def fetchOutcome (year kind count : Nat) (a : Archive) : Reply :=
  if !a.mounted then .busy
  else if a.fetch.isSome then .busy
  else if !yearInRange year || (recordKindOf kind).isNone || count == 0 || decide (16 < count) then
    .badArgument
  else
    match a.findYear year with
    | none => .notFound
    | some (_, e) => if e.state = .erasing then .notAvailable else .accepted

/-- The fetch ends with a REPLY and the number sent (R151). -/
def endFetch (outcome : Reply) (ft : FetchState) (s : State) : State :=
  sendReply ft.requester 8 outcome ft.sent ft.request
    { s with arch := { s.arch with fetch := none } }

/-- The fetch goes on when no read of its own is under way and the transmit queue has room (R150,
R151). -/
def advanceFetch (s : State) : State :=
  match s.arch.fetch with
  | none => s
  | some ft =>
    if ft.reading || decide (12 ≤ s.bus.queue.length) then s
    else if sectionSlots ft.kind ≤ ft.next then endFetch .range ft s
    else if s.arch.areaState ft.area = some .erasing then endFetch .notAvailable ft s
    else
      requestRead ⟨.fetch, slotAddr ft.area ft.kind ft.next, slotSize ft.kind⟩
        { s with arch := { s.arch with fetch := some { ft with reading := true } } }

/-- The fetch of an accepted request (R148, R149). -/
def newFetch (f : RxFrame) (area : Area) (kind : RecordKind) : FetchState :=
  { requester := f.source.toNat, request := f.payload, area := area, year := field f.payload 0 2
    kind := kind, next := field f.payload 3 2, left := field f.payload 5 1, sent := 0
    timer := 10000, reading := false }

def handleFetch (f : RxFrame) (s : State) : State :=
  let year := field f.payload 0 2
  let kind := field f.payload 2 1
  match fetchOutcome year kind (field f.payload 5 1) s.arch, s.arch.findYear year,
      recordKindOf kind with
  | .accepted, some (i, _), some k =>
    advanceFetch { s with arch := { s.arch with fetch := some (newFetch f i k) } }
  | outcome, _, _ => answer 8 f outcome s

/-- A fetch read completes (R150): its RECORD frame, then the end or the next read. -/
def fetchReadDone (bytes : List Byte) (s : State) : State :=
  match s.arch.fetch with
  | none => s
  | some ft =>
    let s := submitFrame
      (buildFrame 9 ft.requester (recordPayload ft.year ft.kind ft.next bytes)) s
    let ft := { ft with
      sent := ft.sent + 1, left := ft.left - 1, next := ft.next + 1, timer := 10000
      reading := false }
    if ft.left = 0 then endFetch .done ft s
    else advanceFetch { s with arch := { s.arch with fetch := some ft } }

/-- FETCH_NEXT_READ (R150): the fetch requests the read of its next index, or ends. -/
def execFetchNextRead (s : State) : Host.Outcome State Fault Refusal := .next (advanceFetch s)

/-- A read of the fetch becomes the read of no one. -/
def ReadReq.orphan (r : ReadReq) : ReadReq := if r.who = .fetch then { r with who := .orphan } else r

/-- The read in flight of an abandoned fetch is completed, its result disregarded (R151). -/
def Activity.orphan : Activity → Activity
  | .reading r => .reading r.orphan
  | .suspendedRead er r => .suspendedRead er r.orphan
  | a => a

/-- FETCH_ABANDON (R151): the progress timer expires. -/
def execFetchAbandon (s : State) : Host.Outcome State Fault Refusal :=
  match s.arch.fetch with
  | none => .next s
  | some _ =>
    .next { s with arch :=
      { s.arch with
        fetch := none
        counts := { s.arch.counts with abandoned := count16 s.arch.counts.abandoned }
        reads := s.arch.reads.map ReadReq.orphan
        activity := s.arch.activity.orphan } }

end Sys2Proof.Machine
end

