-- ==== Sys2Proof/Machine/Mount.lean ====
section
/-! DEFINITION. Mount (spec/08, R152). -/

namespace Sys2Proof.Machine

def setMount (m : Mount) (s : State) : State := { s with arch := { s.arch with mount := m } }

/-- Mount completes: READY, or still FAULT, and the station UNSYNCED (R152). -/
def completeMount (s : State) : State :=
  select { s with
    loader := { s.loader with station := .unsynced }
    arch := { s.arch with
      mount := .off
      condition := if s.arch.condition = .fault then .fault else .ready } }

/-- The four header reads, area 0 first. -/
def headerReads : List ReadReq := allAreas.map fun a => ⟨.mount, areaBase a, headerLen⟩

/-- Mount begins by requesting the reads of the four headers (R152). -/
def beginMount (s : State) : State :=
  select { s with arch := { s.arch with mount := .headers [] [], reads := headerReads } }

/-- The place on the erase list of a header read at mount (R152, step 2). -/
def mountErase (a : Area) (e : AreaEntry) : List EraseEntry :=
  match e.state with
  | .erasing => [⟨a, 2⟩]
  | .released => [⟨a, 1⟩]
  | _ => []

/-- A read of mount in the OPEN area. -/
def mountRead (a : Area) (k : RecordKind) (slot : Nat) (s : State) : State :=
  requestRead ⟨.mount, slotAddr a k slot, slotSize k⟩ s

/-- The search for the last committed day record begins (R152, step 5). -/
def beginDays (a : Area) (s : State) : State := mountRead a .day 365 (setMount (.days 365) s)

/-- One turn of the binary search for the next event slot (R152, step 4). -/
def searchEvents (a : Area) (lo hi : Nat) (s : State) : State :=
  if lo < hi then mountRead a .event ((lo + hi) / 2) (setMount (.events lo hi) s)
  else beginDays a { s with arch := { s.arch with nextEvent := lo } }

/-- Steps 4 and 5 for the OPEN area; without one, mount completes. -/
def beginSearch (s : State) : State :=
  match s.arch.openArea with
  | some (a, _) => searchEvents a 0 2048 s
  | none => completeMount s

/-- The OPEN area that is kept: the latest year, the lower number among equal years (R152, step 3). -/
def keptArea (t : Areas AreaEntry) : Option Area :=
  (allAreas.foldl (fun best i =>
    let e := t.get i
    if e.state = .opened then
      match best with
      | some (_, y) => if y < e.year.getD 0 then some (i, e.year.getD 0) else best
      | none => some (i, e.year.getD 0)
    else best) (none : Option (Area × Nat))).map (·.1)

/-- The OPEN areas that mount closes. -/
def extraOpen (t : Areas AreaEntry) : List Area :=
  allAreas.filter fun i => (t.get i).state == .opened && keptArea t != some i

/-- The CLOSED marker of the next extra OPEN area is programmed (R152, step 3). -/
def closeExtra (todo : List Area) (s : State) : State :=
  match todo with
  | [] => beginSearch s
  | a :: _ =>
    { s with arch := { s.arch with
      mount := .closing todo
      activity := .programming ⟨.mountClose a, areaBase a + 5, [0x00], 10⟩ } }

/-- An area's state in the table becomes CLOSED. -/
def Archive.markClosed (a : Archive) (i : Area) : Archive :=
  a.setArea i fun e => { e with state := .closed }

/-- A CLOSED marker of mount has been programmed. -/
def extraClosed (a : Area) (s : State) : State :=
  match s.arch.mount with
  | .closing todo => closeExtra todo.tail { s with arch := s.arch.markClosed a }
  | _ => s

/-- A CLOSED marker of mount has failed: the archive is in FAULT, and mount goes on with the area it
keeps (R152, step 3). -/
def extraFailed (s : State) : State :=
  match s.arch.mount with
  | .closing todo => beginSearch { s with arch := todo.foldl Archive.markClosed s.arch }
  | _ => s

/-- The table of four entries. -/
def tableOf (l : List AreaEntry) : Areas AreaEntry :=
  Areas.build fun a => l.getD a.val ⟨.free, none, none, false⟩

/-- A read of mount has completed, of a request's place. -/
def mountReadDone (req : ReadReq) (s : State) : State :=
  match s.arch.mount with
  | .headers got steps =>
    let e := headerEntry (flashReadBytes s.flash req.addr 8) (flashErased s.flash req.addr headerLen)
      s.number
    let got := got ++ [e]
    let steps := steps ++ mountErase (Fin.ofNat 4 (got.length - 1)) e
    if got.length < 4 then setMount (.headers got steps) s
    else
      let t := tableOf got
      closeExtra (extraOpen t)
        { s with arch := { s.arch with table := some t, erases := steps.take 3 } }
  | .events lo hi =>
    match s.arch.openArea with
    | some (a, _) =>
      let mid := (lo + hi) / 2
      if slotState (flashReadBytes s.flash req.addr req.len) = .erased then searchEvents a lo mid s
      else searchEvents a (mid + 1) hi s
    | none => s
  | .days slot =>
    match s.arch.openArea with
    | some (a, _) =>
      let bytes := flashReadBytes s.flash req.addr req.len
      if slotState bytes = .committed then
        completeMount { s with arch := { s.arch with lastDay := some ⟨slot + 1, bytes⟩ } }
      else if slot = 0 then completeMount s
      else mountRead a .day (slot - 1) (setMount (.days (slot - 1)) s)
    | none => s
  | _ => s

end Sys2Proof.Machine
end

