-- ==== Sys2Proof/Machine/FlashDone.lean ====
section
/-! DEFINITION. The completions of the flash line (spec/08, R138 to R146): reads, programs, erases and
their time limits. -/

namespace Sys2Proof.Machine

/-- An operation's bytes lie in the 8 MiB of the device (R132). -/
def inFlash (addr len : Nat) : Bool := decide (addr + len ≤ flashSize)

/-! ## Reads -/

/-- The kind and stamp a refused record job names (R139). -/
def Job.conflict : Job → Option (Nat × List Byte)
  | .interval st d => some (RecordKind.interval.code, (Job.interval st d).conflictStamp)
  | .day dy d => some (RecordKind.day.code, (Job.day dy d).conflictStamp)
  | .summary y n d => some (RecordKind.summary.code, (Job.summary y n d).conflictStamp)
  | _ => none

/-- The state found, as a WRITE_CONFLICT event carries it (R198). -/
def foundCode : SlotState → Nat
  | .committed => 3
  | _ => 2

/-- The slot of the head job has been read (R139, R140): ERASED, it is programmed when selected next;
otherwise a record job is refused and an event job passes the slot over. -/
def jobReadDone (calendar : Option IStamp) (bytes : List Byte) (a : Archive) : Archive :=
  if slotState bytes = .erased then { a with jobFound := true }
  else
    match a.queue with
    | [] => a
    | j :: _ =>
      match j.conflict with
      | some (kind, stamp) => refuseJob calendar kind (foundCode (slotState bytes)) stamp a
      | none => { a with nextEvent := a.nextEvent + 1 }

/-- The requester acts on the slot read (R141, R150, R152 to R155). -/
def readDone (req : ReadReq) (s : State) : State :=
  let bytes := flashReadBytes s.flash req.addr req.len
  match req.who with
  | .fetch => fetchReadDone bytes s
  | .orphan => s
  | .mount => mountReadDone req s
  | .resume => resumeReadDone bytes s
  | .job => { s with arch := jobReadDone s.mark.calendar bytes s.arch }

/-- FLASH_READ_DONE (R141). -/
def execFlashReadDone (s : State) : Host.Outcome State Fault Refusal :=
  match s.arch.activity.read with
  | none => .next s
  | some req =>
    if inFlash req.addr req.len then
      .next (select (readDone req
        { s with arch := endRead s.cfg.station.holdoff s.arch }))
    else .fault .flashAddress

/-! ## Programs -/

/-- An area becomes OPEN (R146). -/
def Archive.opened (i : Area) (year station : Nat) (a : Archive) : Archive :=
  { a.setArea i (fun _ => ⟨.opened, some year, some station, false⟩) with
    nextEvent := 0, condition := .ready, wanted := none }

/-- The head of the erase list goes on to a step (R142). -/
def Archive.eraseStep (step : Nat) (a : Archive) : Archive :=
  match a.erases with
  | [] => a
  | e :: es => { a with erases := { e with step := step } :: es }

/-- A program has succeeded: what it was for comes about (R139 to R147, R152). -/
def programmed (purpose : ProgramFor) (s : State) : State :=
  match purpose with
  | .record => { s with arch := s.arch.popJob }
  | .closeYear i opening =>
    { s with arch := (s.arch.popJob.markClosed i).makeOpening ⟨nextArea i, opening⟩ }
  | .release i =>
    { s with arch := s.arch.popJob.setArea i fun e =>
        { e with state := .released, releaseMark := false } }
  | .opening i year => { s with arch := s.arch.opened i year s.number }
  | .erasing i =>
    { s with arch := (s.arch.setArea i fun e => { e with state := .erasing }).eraseStep 2 }
  | .mountClose i => extraClosed i s

/-- A program has failed or run out of time (R144); mount goes on with its search (R152). -/
def programFailed (purpose : ProgramFor) (s : State) : State :=
  match purpose with
  | .mountClose _ => select (extraFailed (archiveFault s))
  | _ => select (archiveFault s)

/-- FLASH_PROGRAM_DONE (R141). -/
def execFlashProgramDone (ok : Bool) (s : State) : Host.Outcome State Fault Refusal :=
  match s.arch.activity with
  | .programming p =>
    if !inFlash p.addr p.data.length then .fault .flashAddress
    else if ok then
      .next (select (programmed p.purpose
        { s with
          flash := flashWriteBytes s.flash p.addr p.data
          arch := { s.arch with activity := .idle } }))
    else .next (programFailed p.purpose s)
  | _ => .next s

/-- PROGRAM_TIMEOUT (R141, R144): no completion within 10 ms. -/
def execProgramTimeout (s : State) : Host.Outcome State Fault Refusal :=
  match s.arch.activity with
  | .programming p =>
    if inFlash p.addr p.data.length then .next (programFailed p.purpose s) else .fault .flashAddress
  | _ => .next s

/-! ## Erases (R142, R143) -/

/-- The wanted area of a BLOCKED archive has become FREE: its opening is made pending (R146). -/
def openWanted (i : Area) (calendar : Option IStamp) (a : Archive) : Archive :=
  match a.wanted, calendar with
  | some w, some now => if w = i then a.makeOpening ⟨i, now.year⟩ else a
  | _, _ => a

/-- An erase has completed (R142): the next step, or, after the header sector, the area FREE. -/
def eraseDone (er : EraseRun) (s : State) : State :=
  let a := { s.arch with activity := .idle }
  if er.step < 48 then { s with arch := a.eraseStep (er.step + 1) }
  else
    let a := a.setArea er.area fun _ => ⟨.free, none, none, false⟩
    { s with arch := openWanted er.area s.mark.calendar { a with erases := a.erases.tail } }

/-- FLASH_ERASE_DONE (R142, R144). -/
def execFlashEraseDone (ok : Bool) (s : State) : Host.Outcome State Fault Refusal :=
  match s.arch.activity with
  | .erasing er =>
    if !inFlash (eraseRange er).1 (eraseRange er).2 then .fault .flashAddress
    else if ok then
      .next (select (eraseDone er
        { s with flash := flashErase s.flash (eraseRange er).1 (eraseRange er).2 }))
    else .next (select (archiveFault s))
  | _ => .next s

/-- ERASE_TIMEOUT (R142, R144): the limit clock reaches the step's limit. -/
def execEraseTimeout (s : State) : Host.Outcome State Fault Refusal :=
  match s.arch.activity with
  | .erasing er =>
    if inFlash (eraseRange er).1 (eraseRange er).2 then .next (select (archiveFault s))
    else .fault .flashAddress
  | _ => .next s

/-- ERASE_MIN_RUN (R143): the erase has run its minimum while a read waits; it is suspended and the
read served. -/
def execEraseMinRun (s : State) : Host.Outcome State Fault Refusal :=
  match s.arch.activity with
  | .erasing er => .next { s with arch := serveSuspended er s.arch }
  | _ => .next s

/-- ERASE_HOLDOFF_EXPIRY (R143): the erase is resumed, its run timer at 0. -/
def execEraseHoldoffExpiry (s : State) : Host.Outcome State Fault Refusal :=
  match s.arch.activity with
  | .suspendedHold er _ =>
    .next { s with arch := { s.arch with activity := .erasing { er with run := 0 } } }
  | _ => .next s

end Sys2Proof.Machine
end

