-- ==== Sys2Proof/Machine/Status.lean ====
section
/-! DEFINITION. The STATUS_REPORT (R172, R196). -/

namespace Sys2Proof.Machine

/-- Offsets 0..11: station state, refusal record, station and causes. -/
def reportStation (s : State) : List Byte :=
  let r := s.loader.refusal.getD ⟨0, 0, 0, 0, 0⟩
  let j := s.bus.joined.getD ⟨0, 0⟩
  [byte s.loader.station.code, byte (haltCode s.loader.haltReason), byte r.stage, byte r.sect,
    byte r.number, byte r.field, byte r.entry, byte j.number, byte j.bitRate, s.cfg.station.mask,
    byte s.causes,
    byte (flagBit s.alertActive 0 + flagBit s.bus.fault 1 + flagBit s.bus.duplicate.isSome 2 +
      flagBit s.eng.closing 3)]

/-- Offsets 12..24: the bus and the Mark Unit. -/
def reportMark (s : State) : List Byte :=
  [byte s.bus.queue.length, byte s.bus.failures, byte s.mark.sync.code, byte s.mark.strays,
    byte (flagBit s.mark.stuck 0)] ++ signedBe 3 s.mark.lastOffset ++ istampBe s.mark.calendar

/-- One channel group (offsets 25..48). R196 gives the status an absent code; the flags byte beside an
absent minute, and the flags and drift bytes of a disabled channel, are 00h (DESIGN CHOICE, log 44). -/
def reportChannel (s : State) (c : Chan) : List Byte :=
  let d := s.chk.drift.get c
  if (s.cfg.chans.get c).enable then
    (match s.exch.lastMinute.get c with
      | some m => [byte m.status.code, byte m.flags.statusByte]
      | none => [0xFF, 0x00]) ++
      [byte (flagBit d.locked 7 + flagBit d.span.lock 1 + flagBit d.zero.lock 0)]
  else [0xFF, 0x00, 0x00]

/-- The value entries (offsets 50..97), along the subscription pairs. -/
def reportEntries : List SubPair → List ValueEntry → List Byte
  | p :: ps, e :: es =>
    [byte p.station, byte p.channel, byte e.outcome.code, byte e.age] ++ be 2 e.late ++
      be 2 e.lost ++ reportEntries ps es
  | _, _ => []

/-- The plant-state entry (offsets 98..104). With none named R196 gives the station as 0; that the bytes
beside it are 00h is the model's (DESIGN CHOICE, log 47). -/
def reportPlant (s : State) : List Byte :=
  match s.cfg.plantSource with
  | some n =>
    [byte n, byte s.exch.plant.outcome.code, byte s.exch.plant.age] ++ be 2 s.exch.plant.late ++
      be 2 s.exch.plant.lost
  | none => List.replicate 7 0

/-- The local reference records (offsets 106..145). R67 and R196 name no order of them: they stand in
rising channel order (DESIGN CHOICE, log 47). -/
def reportLocals (s : State) : List Byte :=
  (allChans.filter s.cfg.needsLocal).flatMap fun c =>
    let r := s.exch.locals.get c
    [byte (chanNumber c), byte r.outcome.code, byte r.age] ++ be 2 r.lost

/-- The check in progress (offsets 147..149). -/
def reportCheck (s : State) : List Byte :=
  (match s.chk.current with
    | some c => [pairByte c.pair, byte c.progress.phase.code]
    | none => [0x00, 0x00]) ++ [byte s.chk.queue.length]

def reportArea (e : AreaEntry) : List Byte :=
  byte e.state.code :: be 2 (e.year.getD 0xFFFF)

/-- The four areas (offsets 151..162); unknown before mount has read the headers (R135). -/
def reportAreas (s : State) : List Byte :=
  match s.arch.table with
  | some t => t.toList.flatMap reportArea
  | none => List.replicate 12 0xFF

/-- The erase list and the head's step (offsets 165..169). -/
def reportErases (s : State) : List Byte :=
  let areas := s.arch.erases.map fun e => byte e.area.val
  [byte s.arch.erases.length] ++ (areas ++ List.replicate 3 0xFF).take 3 ++
    [byte (match s.arch.erases with
      | e :: _ => e.step
      | [] => 0)]

/-- The archive (offsets 150..170). -/
def reportArchive (s : State) : List Byte :=
  [byte s.arch.condition.code] ++ reportAreas s ++
    [byte (match s.arch.wanted with
      | some w => w.val
      | none => 0xFF), byte s.arch.queue.length] ++ reportErases s ++
    [byte (flagBit s.arch.fetch.isSome 0)]

/-- The station's late-reference counter (R67). -/
def lateReferences (s : State) : Nat :=
  min 65535 ((s.exch.entries.map (·.late)).foldl (· + ·) 0 +
    (if s.cfg.plantSource.isSome then s.exch.plant.late else 0))

/-- The eleven counts (offsets 171..192). -/
def reportCounts (s : State) : List Byte :=
  be 2 s.bus.counts.dropped ++ be 2 s.bus.counts.stale ++ be 2 s.bus.counts.failed ++
    be 2 s.bus.counts.bad ++ be 2 s.bus.counts.duplicate ++ be 2 (lateReferences s) ++
    be 2 s.mark.refusedTimes ++ be 2 s.mark.disagreements ++ be 2 s.arch.counts.dropped ++
    be 2 s.arch.counts.lost ++ be 2 s.arch.counts.abandoned

/-- The payload of a STATUS_REPORT (R196). -/
def statusPayload (s : State) : List Byte :=
  reportStation s ++ reportMark s ++ allChans.flatMap (reportChannel s) ++
    [byte s.exch.entries.length] ++ padTo 48 (reportEntries s.cfg.subs s.exch.entries) ++
    reportPlant s ++
    [byte (allChans.countP s.cfg.needsLocal)] ++ padTo 40 (reportLocals s) ++
    [byte s.exch.minutes.length] ++ reportCheck s ++ reportArchive s ++ reportCounts s

/-- A STATUS request is answered (R172). -/
def handleStatus (f : RxFrame) (s : State) : State :=
  submitFrame (buildFrame 14 f.source.toNat (statusPayload s)) s

end Sys2Proof.Machine
end

