-- ==== Sys2Proof/WellFormed.lean ====
section
/-! DEFINITION. The checks an operand must pass for a command to be an event of the table. -/

namespace Sys2Proof

/-- The codes of the table of R159. -/
def knownKinds : List Nat := [1, 2, 3, 8, 9, 10, 11, 12, 13, 14, 15, 16]

/-- The codes of the request kinds (R159). -/
def requestKinds : List Nat := [8, 10, 11, 12, 13, 15]

/-- A frame received whole: a source of 1..31, a destination of 0..31, a payload of at most 336 bytes
(R159, R167). -/
def RxFrame.wellFormed (f : RxFrame) : Bool :=
  f.source != 0 && decide (f.dest.toNat ≤ 31) && decide (f.payload.length ≤ 336)

/-- The operands of a command are ones its event can carry. -/
def Instr.wellFormed : Instr → Bool
  | .powerUp => true
  | .resetPin => true
  | .resetPeriodEnd => true
  | .eepromReadDone _ bytes => decide (bytes.length ≤ 4096)
  | .sampleWord _ => true
  | .sampleFrameAbort => true
  | .statusInputEdge _ _ => true
  | .filterTimerExpiry _ => true
  | .minuteBoundary => true
  | .ownExpiry => true
  | .markPulseEnd => true
  | .markFall => true
  | .markRise => true
  | .lowCheckExpiry => true
  | .holdOffExpiry => true
  | .markStuck => true
  | .markNormal => true
  | .timeFrame f => f.wellFormed
  | .summaryFrame f => f.wellFormed
  | .minuteFrame f => f.wellFormed
  | .minuteDeadlineExpiry place => decide (place < 2)
  | .checkRequest f => f.wellFormed
  | .settleExpiry => true
  | .measureExpiry => true
  | .purgeTimerExpiry => true
  | .purgeCeiling => true
  | .driftReset f => f.wellFormed
  | .release f => f.wellFormed
  | .fetch f => f.wellFormed
  | .status f => f.wellFormed
  | .restart f => f.wellFormed
  | .unknownKind kind f => !(knownKinds.contains kind.toNat) && f.wellFormed
  | .badFrame _ => true
  | .duplicateStation _ f => f.wellFormed
  | .frameDisregarded _ f => f.wellFormed
  | .mediumIdle => true
  | .contentionLost => true
  | .attemptSuccess => true
  | .attemptFailure => true
  | .minuteFrameStale => true
  | .duplicateTimerExpiry => true
  | .restartTimerExpiry => true
  | .flashReadDone => true
  | .flashProgramDone _ => true
  | .programTimeout => true
  | .flashEraseDone _ => true
  | .eraseTimeout => true
  | .eraseMinRun => true
  | .eraseHoldoffExpiry => true
  | .resumeQueueRoom => true
  | .fetchNextRead => true
  | .fetchAbandon => true
  | .mediumBusy => true

end Sys2Proof
end

