-- ==== Sys2Proof/Machine/Receive.lean ====
section
/-! DEFINITION. The receive path (spec/09, R167 to R171): frames off the medium, duplicates, dispatch
and requests. -/

namespace Sys2Proof.Machine

def countBad (s : State) : State :=
  { s with bus := { s.bus with
    counts := { s.bus.counts with bad := count16 s.bus.counts.bad } } }

/-! ## Requests (R170) -/

/-- RESTART (R173): ACCEPTED, and the restart timer starts unless one runs. -/
def handleRestart (f : RxFrame) (s : State) : State :=
  let reply := { buildFrame 16 f.source.toNat (replyPayload 15 .accepted 0 f.payload) with
    restartReply := true }
  let s := submitFrame reply s
  if s.bus.restart.isSome then s else { s with bus := { s.bus with restart := some 1000 } }

/-- A request of a known kind reaches its owner (R170, tests 4 to 6). -/
def serveRequest (kind : Nat) (f : RxFrame) (s : State) : State :=
  match kind with
  | 8 => handleFetch f s
  | 10 => handleCheck f s
  | 11 => handleDriftReset f s
  | 12 => handleRelease f s
  | 13 => handleStatus f s
  | 15 => handleRestart f s
  | _ => s

/-- A request addressed to this station is tested (R170). -/
def handleRequest (kind : Nat) (f : RxFrame) (s : State) : State :=
  if !knownKinds.contains kind then answer kind f .unknownKind s
  else if fixedLength kind f.payload ≠ some f.payload.length then answer kind f .badArgument s
  else if s.loader.station = .halted ∧ kind ≠ 13 ∧ kind ≠ 15 then answer kind f .notAvailable s
  else serveRequest kind f s

/-! ## Dispatch (R167, R169) -/

/-- A MINUTE frame at the Reference Exchange (R56): disregarded unless RECORDING; refused, it counts
as a bad frame. -/
def handleMinute (f : RxFrame) (s : State) : State :=
  if s.recording then
    match readMinute f.payload with
    | some m => takeMinute f.source.toNat m s
    | none => countBad s
  else s

/-- A broadcast kind, its length judged (R167, R169). -/
def dispatchBroadcast (kind : Nat) (f : RxFrame) (s : State) : State :=
  if fixedLength kind f.payload ≠ some f.payload.length then countBad s
  else if f.dest = 0 ∨ f.dest.toNat = s.number then
    match kind with
    | 1 => handleMinute f s
    | 2 => if f.source.toNat = s.number then s else handleSummary f s
    | 3 => handleTime f s
    | _ => s
  else s

/-- A frame received whole, not a duplicate, is dispatched by kind and destination (R169). -/
def dispatch (kind : Nat) (f : RxFrame) (s : State) : State :=
  if kind = 1 ∨ kind = 2 ∨ kind = 3 then dispatchBroadcast kind f s
  else if kind = 9 ∨ kind = 14 ∨ kind = 16 then s
  else if f.dest ≠ 0 ∧ f.dest.toNat = s.number then handleRequest kind f s
  else s

/-- A duplicate (R168): counted, the mark's timer started, its event on the mark's rise. -/
def takeDuplicate (kind : Byte) (f : RxFrame) (s : State) : State :=
  let marked := s.bus.duplicate.isSome
  let s := { s with bus := { s.bus with
    duplicate := some 60000
    counts := { s.bus.counts with duplicate := count16 s.bus.counts.duplicate } } }
  if marked then s else submitEvent (duplicateEvent s.mark.calendar kind f.dest) s

/-- A frame received whole comes off the medium (R158, R167 to R169). -/
def receive (kind : Byte) (f : RxFrame) (s : State) : State :=
  match s.bus.joined with
  | none => s
  | some j =>
    if f.source = 0 then countBad s
    else if f.source.toNat = j.number then takeDuplicate kind f s
    else dispatch kind.toNat f s

/-! ## The commands of the receive path -/

/-- TIME_FRAME (R42, R43, R46). -/
def execTimeFrame (f : RxFrame) (s : State) : Host.Outcome State Fault Refusal :=
  .next (receive 3 f s)

/-- SUMMARY_FRAME (R42, R44, R46). -/
def execSummaryFrame (f : RxFrame) (s : State) : Host.Outcome State Fault Refusal :=
  .next (receive 2 f s)

/-- MINUTE_FRAME (R56). -/
def execMinuteFrame (f : RxFrame) (s : State) : Host.Outcome State Fault Refusal :=
  .next (receive 1 f s)

/-- CHECK_REQUEST (R127). -/
def execCheckRequest (f : RxFrame) (s : State) : Host.Outcome State Fault Refusal :=
  .next (receive 10 f s)

/-- DRIFT_RESET (R128). -/
def execDriftReset (f : RxFrame) (s : State) : Host.Outcome State Fault Refusal :=
  .next (receive 11 f s)

/-- RELEASE (R147). -/
def execRelease (f : RxFrame) (s : State) : Host.Outcome State Fault Refusal :=
  .next (receive 12 f s)

/-- FETCH (R149). -/
def execFetch (f : RxFrame) (s : State) : Host.Outcome State Fault Refusal :=
  .next (receive 8 f s)

/-- STATUS (R172). -/
def execStatus (f : RxFrame) (s : State) : Host.Outcome State Fault Refusal :=
  .next (receive 13 f s)

/-- RESTART (R173). -/
def execRestart (f : RxFrame) (s : State) : Host.Outcome State Fault Refusal :=
  .next (receive 15 f s)

/-- UNKNOWN_KIND (R169, R170). -/
def execUnknownKind (kind : Byte) (f : RxFrame) (s : State) : Host.Outcome State Fault Refusal :=
  .next (receive kind f s)

/-- DUPLICATE_STATION (R168). -/
def execDuplicateStation (kind : Byte) (f : RxFrame) (s : State) :
    Host.Outcome State Fault Refusal :=
  .next (receive kind f s)

/-- FRAME_DISREGARDED (R169). -/
def execFrameDisregarded (kind : Byte) (f : RxFrame) (s : State) :
    Host.Outcome State Fault Refusal :=
  .next (receive kind f s)

/-- BAD_FRAME (R167): broken, it is discarded and counted; bytes that do make a whole frame are taken
as that frame. -/
def execBadFrame (line : List Byte) (s : State) : Host.Outcome State Fault Refusal :=
  match readLine line with
  | some (kind, f) => .next (receive kind f s)
  | none => .next (if s.bus.joined.isSome then countBad s else s)

/-- DUPLICATE_TIMER_EXPIRY (R168): the mark clears. -/
def execDuplicateTimerExpiry (s : State) : Host.Outcome State Fault Refusal :=
  .next { s with bus := { s.bus with duplicate := none } }

end Sys2Proof.Machine
end

