-- ==== Sys2Proof/Machine/Reset.lean ====
section
/-! DEFINITION. Resets (spec/10, R179, R180) and the beginning of loading (R182). -/

namespace Sys2Proof.Machine

/-- The common effect of a reset (R180): a flash operation is cut off, and every item of state takes
its value after reset. The levels of the pins, the flash, the waiting commands and the draws stay. -/
def resetAll (s : State) : State :=
  let s := cutFlash true s
  { s with
    loader := Loader.reset, filter := Filter.reset, port := SamplePort.reset
    mark := MarkUnit.reset, exch := Exchange.reset, eng := Engine.reset, chk := CheckUnit.reset
    arch := Archive.reset, bus := Bus.reset }

/-- A reset that holds its period (R179). -/
def holdReset (s : State) : State :=
  let s := resetAll s
  { s with pins := { s.pins with resetHeld := true } }

/-- The reset period has ended: the station is LOADING and the header is read (R179, R182). -/
def beginLoading (s : State) : State :=
  { s with
    pins := { s.pins with resetHeld := false }
    loader := { s.loader with phase := .header } }

/-- The reset of an accepted RESTART, which the part leaves at once (R173, R179). -/
def restartReset (s : State) : State := beginLoading (resetAll s)

/-- POWER_UP (R179). -/
def execPowerUp (s : State) : Host.Outcome State Fault Refusal := .next (holdReset s)

/-- RESET_PIN (R179): the pin is driven active. -/
def execResetPin (s : State) : Host.Outcome State Fault Refusal := .next (holdReset s)

/-- RESET_PERIOD_END (R179, R182). -/
def execResetPeriodEnd (s : State) : Host.Outcome State Fault Refusal :=
  if s.pins.resetHeld then .next (beginLoading s) else .next s

end Sys2Proof.Machine
end

