-- ==== Sys2Proof/Machine/Attempts.lean ====
section
/-! DEFINITION. The medium and the attempts (spec/09, R158, R161 to R166, R173). -/

namespace Sys2Proof.Machine

def setBus (b : Bus) (s : State) : State := { s with bus := b }

/-- MEDIUM_IDLE (R158, R161): an attempt begins with the head frame. -/
def execMediumIdle (s : State) : Host.Outcome State Fault Refusal :=
  if s.bus.joined.isSome && s.bus.inFlight.isNone then
    .next (setBus ({ s.bus with mediumIdle := true } : Bus).startAttempt s)
  else .next s

/-- MEDIUM_BUSY (R158): another station begins to send. -/
def execMediumBusy (s : State) : Host.Outcome State Fault Refusal :=
  .next { s with bus := { s.bus with mediumIdle := false } }

/-- The frame in flight leaves the queue. -/
def Bus.dropInFlight (b : Bus) : Bus := { b with queue := b.queue.eraseP fun f => f.inFlight }

/-- The frame in flight changed in its place. -/
def Bus.mapInFlight (g : TxFrame → TxFrame) (b : Bus) : Bus :=
  { b with queue := b.queue.map fun f => if f.inFlight then g f else f }

/-- A MINUTE frame of the stale age (R165). -/
def TxFrame.stale (f : TxFrame) : Bool := f.kind == 1 && decide (30000 ≤ f.age)

def Bus.countStale (b : Bus) : Bus :=
  { b with counts := { b.counts with stale := count16 b.counts.stale } }

def Bus.countFailed (b : Bus) : Bus :=
  { b with counts := { b.counts with failed := count16 b.counts.failed } }

/-- The frame in flight stays in its place, or, being stale, is withdrawn (R161, R162, R165). -/
def Bus.keepOrWithdraw (f : TxFrame) (b : Bus) : Bus :=
  if f.stale then b.dropInFlight.countStale
  else b.mapInFlight fun g => { g with inFlight := false }

/-- CONTENTION_LOST (R161, R165). -/
def execContentionLost (s : State) : Host.Outcome State Fault Refusal :=
  match s.bus.inFlight with
  | some f => .next (setBus (s.bus.keepOrWithdraw f) s)
  | none => .next s

/-- The frame as the receive path takes it. -/
def TxFrame.received (f : TxFrame) (source : Nat) : RxFrame :=
  { priority := BitVec.ofNat 3 f.priority, source := BitVec.ofNat 5 source
    dest := BitVec.ofNat 8 f.dest, payload := f.payload }

/-- BUS_FAULT clears at a successful attempt (R162, R166). -/
def endBusFault (s : State) : State :=
  let failures := s.bus.failures
  let fault := s.bus.fault
  let s := { s with bus := { s.bus with failures := 0, fault := false } }
  if fault then submitEvent (busNormalEvent s.mark.calendar failures) s else s

/-- ATTEMPT_SUCCESS (R162, R169, R173): the frame leaves, the failures end, the station takes its own
frame, and the REPLY of a pending RESTART resets it. -/
def execAttemptSuccess (s : State) : Host.Outcome State Fault Refusal :=
  match s.bus.inFlight with
  | none => .next s
  | some f =>
    let s := endBusFault (setBus s.bus.dropInFlight s)
    let s := dispatch f.kind (f.received s.number) s
    if f.restartReply && s.bus.restart.isSome then .next (restartReset s) else .next s

/-- The failure counts of a failed attempt, and the frame's fate (R162, R165). -/
def Bus.fail (f : TxFrame) (b : Bus) : Bus :=
  let b := { b with failures := satInc 255 b.failures }
  if 7 ≤ f.failed then b.dropInFlight.countFailed
  else
    { f with failed := f.failed + 1 } |> fun g =>
      (b.mapInFlight fun _ => g).keepOrWithdraw g

/-- ATTEMPT_FAILURE (R162, R166): at 32 consecutive failures BUS_FAULT is entered with its event. -/
def execAttemptFailure (s : State) : Host.Outcome State Fault Refusal :=
  match s.bus.inFlight with
  | none => .next s
  | some f =>
    let s := setBus (s.bus.fail f) s
    if !s.bus.fault && decide (32 ≤ s.bus.failures) then
      .next (submitEvent
        (busFaultEvent s.mark.calendar s.bus.queue.length s.bus.counts.failed)
        { s with bus := { s.bus with fault := true } })
    else .next s

/-! ## Stale MINUTE frames (R165) -/

/-- The oldest MINUTE frame of the queue: the first, for one priority keeps the order of
submission. -/
def Bus.oldestMinute (b : Bus) : Option TxFrame := b.queue.find? fun f => f.kind == 1

/-- The first MINUTE frame takes the stale age, or, not in flight, is withdrawn. -/
def withdrawMinute : List TxFrame → List TxFrame
  | [] => []
  | f :: fs =>
    if f.kind = 1 then
      (if f.inFlight then { f with age := max f.age 30000 } :: fs else fs)
    else f :: withdrawMinute fs

/-- MINUTE_FRAME_STALE (R165): the age of the oldest MINUTE frame reaches 30,000 ms. Not in flight, it
is withdrawn and counted; in flight, it is judged at the end of its attempt. A frame in flight whose
age has reached the limit already gives way to the next one. -/
def execMinuteFrameStale (s : State) : Host.Outcome State Fault Refusal :=
  match s.bus.oldestMinute with
  | none => .next s
  | some f =>
    if f.inFlight && decide (f.age < 30000) then
      .next (setBus { s.bus with queue := withdrawMinute s.bus.queue } s)
    else if s.bus.queue.any (fun g => g.kind == 1 && !g.inFlight) then
      .next (setBus
        ({ s.bus with queue := s.bus.queue.eraseP fun g => g.kind == 1 && !g.inFlight } :
          Bus).countStale s)
    else .next s

/-- RESTART_TIMER_EXPIRY (R173): the pending RESTART resets the station. -/
def execRestartTimerExpiry (s : State) : Host.Outcome State Fault Refusal :=
  if s.bus.restart.isSome then .next (restartReset s) else .next s

end Sys2Proof.Machine
end

