-- ==== Sys2Proof/Machine/ImageCheck.lean ====
section
/-! DEFINITION. The configuration image (spec/10, R183 to R190, R199): its checks in their order, the
refusal record, and the image read from its bytes. -/

namespace Sys2Proof.Machine

/-- One check: whether it passes, and how it is refused. -/
abbrev LoadCheck := Bool × LoadRefusal

/-- The first check that fails (R190). -/
def firstBad (checks : List LoadCheck) : Option LoadRefusal :=
  (checks.find? fun c => !c.1).map (·.2)

def inRange (lo hi x : Nat) : Bool := decide (lo ≤ x) && decide (x ≤ hi)

/-! ## Header and CRC (R183, R184) -/

/-- The image header's length (R199). -/
def imageHeaderLen : Nat := 6

def headerCount (head : List Byte) : Nat := field head 3 1

def headerImageLen (head : List Byte) : Nat := field head 1 2

/-- The end of the section table. -/
def tableEnd (count : Nat) : Nat := imageHeaderLen + 5 * count

/-- The header checks (R183): format, section count, image length. -/
def headerChecks (head : List Byte) : List LoadCheck :=
  [(field head 0 1 == 1, ⟨2, 0, 0, 0, 0⟩),
    (inRange 1 16 (headerCount head), ⟨2, 0, 0, 3, 0⟩),
    (inRange (tableEnd (headerCount head)) 4096 (headerImageLen head), ⟨2, 0, 0, 1, 0⟩)]

/-- The CRC is good (R184): computed with the CRC item taken as zero. The item is the one within the image,
not that of the first header read (DESIGN CHOICE, log 49). -/
def crcGood (image : List Byte) : Bool :=
  (crc16 (image.take 4 ++ [0, 0] ++ image.drop 6)).toNat == field image 4 2

/-! ## Section table (R185) -/

structure TableEntry where
  type : Nat
  offset : Nat
  length : Nat
  deriving DecidableEq, Repr

def readTable (count : Nat) (image : List Byte) : List TableEntry :=
  (List.range count).map fun i =>
    let off := imageHeaderLen + 5 * i
    ⟨field image off 1, field image (off + 1) 2, field image (off + 3) 2⟩

/-- The fixed length of a section type (R199). -/
def sectionLength : Nat → Nat
  | 1 => 24
  | 2 => 80
  | 3 => 16
  | 4 => 20
  | _ => 0

def TableEntry.overlaps (a b : TableEntry) : Bool :=
  decide (a.offset < b.offset + b.length) && decide (b.offset < a.offset + a.length)

/-- The checks of one entry, in a table whose earlier entries are given. -/
def entryChecks (count size place : Nat) (earlier : List TableEntry) (e : TableEntry) :
    List LoadCheck :=
  [(inRange 1 4 e.type, ⟨4, 5, place, 0, 0⟩),
    (decide (tableEnd count ≤ e.offset) && decide (e.offset + e.length ≤ size),
      ⟨4, 5, place, 1, 0⟩),
    (e.length == sectionLength e.type, ⟨4, 5, place, 3, 0⟩),
    (!(earlier.any e.overlaps), ⟨4, 5, place, 1, 0⟩)]

def tableChecks (count size : Nat) : Nat → List TableEntry → List TableEntry → List LoadCheck
  | _, _, [] => []
  | place, earlier, e :: es =>
    entryChecks count size place earlier e ++ tableChecks count size (place + 1) (earlier ++ [e]) es

/-! ## Section counts (R185) -/

/-- The numbers that open the sections of a type. -/
def sectionNumbers (type : Nat) (image : List Byte) (t : List TableEntry) : List Nat :=
  (t.filter fun e => e.type == type).map fun e => field image e.offset 1

/-- Exactly one section of a type. -/
def oneChecks (type n : Nat) : List LoadCheck :=
  [(n != 0, ⟨5, type, 0, 0xFF, 0⟩), (n == 1, ⟨5, type, 0, 0xFE, 0⟩)]

/-- One section each for the numbers 1..`last`. -/
def numberChecks (type last : Nat) (numbers : List Nat) : List LoadCheck :=
  let each := (List.range last).map (· + 1)
  (numbers.all (inRange 1 last), ⟨5, type, 0, 0xFD, 0⟩) ::
    (each.map fun n => (numbers.contains n, (⟨5, type, n, 0xFF, 0⟩ : LoadRefusal))) ++
    (each.map fun n => (numbers.count n == 1, (⟨5, type, n, 0xFE, 0⟩ : LoadRefusal)))

def countChecks (image : List Byte) (t : List TableEntry) : List LoadCheck :=
  oneChecks 1 (t.countP fun e => e.type == 1) ++ oneChecks 3 (t.countP fun e => e.type == 3) ++
    numberChecks 2 8 (sectionNumbers 2 image t) ++ numberChecks 4 2 (sectionNumbers 4 image t)

/-- The bytes of the section of a type that opens with a number; of a type alone for `none`. -/
def sectionBytes (type : Nat) (number : Option Nat) (image : List Byte) (t : List TableEntry) :
    List Byte :=
  match t.find? fun e =>
      e.type == type && (match number with
        | some n => field image e.offset 1 == n
        | none => true) with
  | some e => (image.drop e.offset).take e.length
  | none => []

/-! ## Field ranges (R186 to R188) -/

/-- An unsigned field of a section against its range. -/
def rangeCheck (sect number : Nat) (bs : List Byte) (off n lo hi : Nat) : LoadCheck :=
  (inRange lo hi (field bs off n), ⟨6, sect, number, off, 0⟩)

/-- A field of an entry of a section against its range. -/
def entryRange (sect number entry : Nat) (bs : List Byte) (off n lo hi : Nat) : LoadCheck :=
  (inRange lo hi (field bs off n), ⟨6, sect, number, off, entry⟩)

/-- A calibration offset against its range. -/
def offsetCheck (number : Nat) (bs : List Byte) (off : Nat) : LoadCheck :=
  (decide (-1000000 ≤ signedField bs off 4) && decide (signedField bs off 4 ≤ 1000000),
    ⟨6, 2, number, off, 0⟩)

def stationChecks (bs : List Byte) : List LoadCheck :=
  [rangeCheck 1 0 bs 0 1 1 31, rangeCheck 1 0 bs 1 1 1 3, rangeCheck 1 0 bs 2 1 1 7,
    rangeCheck 1 0 bs 3 2 1000 20000, rangeCheck 1 0 bs 5 1 0 5, rangeCheck 1 0 bs 6 1 0 100,
    rangeCheck 1 0 bs 7 1 0 100, rangeCheck 1 0 bs 8 1 0 100, rangeCheck 1 0 bs 9 1 0 100,
    rangeCheck 1 0 bs 10 1 1 100, rangeCheck 1 0 bs 11 1 50 100, rangeCheck 1 0 bs 12 1 0 48,
    rangeCheck 1 0 bs 13 2 0 366, rangeCheck 1 0 bs 15 2 0 10000, rangeCheck 1 0 bs 17 1 0 127,
    rangeCheck 1 0 bs 19 2 15000 20000, rangeCheck 1 0 bs 21 1 1 16,
    (decide (field bs 22 1 ≤ 14) && field bs 22 1 % 2 == 0, ⟨6, 1, 0, 22, 0⟩)]

/-- The numbers of the entries of a section, 1 to a count. -/
def entryNumbers (count : Nat) : List Nat := (List.range count).map (· + 1)

def subscriptionChecks (bs : List Byte) : List LoadCheck :=
  rangeCheck 3 0 bs 0 1 0 6 ::
    ((entryNumbers (field bs 0 1)).flatMap fun m =>
      [entryRange 3 0 m bs (2 * m - 1) 1 1 31, entryRange 3 0 m bs (2 * m) 1 1 8]) ++
    [rangeCheck 3 0 bs 13 1 0 31]

/-- A source of a reference: NONE, LOCAL 1..8 or SUBSCRIPTION 1..6 (R187). -/
def sourceCheck (number : Nat) (bs : List Byte) (off : Nat) : LoadCheck :=
  ((match field bs off 1 with
    | 0 => true
    | 1 => inRange 1 8 (field bs (off + 1) 1)
    | 2 => inRange 1 6 (field bs (off + 1) 1)
    | _ => false), ⟨6, 2, number, off, 0⟩)

/-- Set B's fields, read only when it is present (R187). -/
def setBChecks (number : Nat) (bs : List Byte) : List LoadCheck :=
  if field bs 14 1 % 2 = 1 then
    [rangeCheck 2 number bs 15 4 1 4000000, offsetCheck number bs 19,
      (inRange 2000 2099 (field bs 23 2) && inRange 1 366 (field bs 25 2) &&
        inRange 0 47 (field bs 27 1), ⟨6, 2, number, 23, 0⟩)]
  else []

def valveChecks (number : Nat) (bs : List Byte) (j : Nat) : List LoadCheck :=
  let off := 54 + 5 * j
  [entryRange 2 number j bs off 1 1 7, entryRange 2 number j bs (off + 1) 1 0 1,
    entryRange 2 number j bs (off + 2) 3 0 0x9932BF]

def channelChecks (number : Nat) (bs : List Byte) : List LoadCheck :=
  [rangeCheck 2 number bs 2 1 1 6, rangeCheck 2 number bs 3 1 0 2,
    rangeCheck 2 number bs 4 1 6 60, rangeCheck 2 number bs 5 1 1 60,
    rangeCheck 2 number bs 6 4 1 4000000, offsetCheck number bs 10] ++
  setBChecks number bs ++
  [rangeCheck 2 number bs 29 2 0 20000, sourceCheck number bs 31, sourceCheck number bs 33,
    sourceCheck number bs 35, sourceCheck number bs 37, rangeCheck 2 number bs 39 3 0 9999999,
    rangeCheck 2 number bs 42 3 0 9999999, rangeCheck 2 number bs 45 3 0 9999999,
    rangeCheck 2 number bs 48 1 0 50, rangeCheck 2 number bs 49 3 0 1000000,
    rangeCheck 2 number bs 52 3 1 9999999, rangeCheck 2 number bs 55 3 1 9999999,
    rangeCheck 2 number bs 58 1 0 4] ++
  (entryNumbers (field bs 58 1)).flatMap (valveChecks number bs)

def scheduleChecks (number : Nat) (bs : List Byte) (m : Nat) : List LoadCheck :=
  let off := 6 + 4 * m
  [entryRange 4 number m bs off 1 1 7, entryRange 4 number m bs (off + 1) 1 0 47,
    entryRange 4 number m bs (off + 2) 1 1 31, entryRange 4 number m bs (off + 3) 1 0 30]

def pathChecks (number : Nat) (bs : List Byte) : List LoadCheck :=
  [rangeCheck 4 number bs 1 2 30 600, rangeCheck 4 number bs 3 2 30 300,
    rangeCheck 4 number bs 5 2 30 900, rangeCheck 4 number bs 7 2 60 3600,
    rangeCheck 4 number bs 9 1 0 2] ++
  (entryNumbers (field bs 9 1)).flatMap (scheduleChecks number bs)

def rangeChecks (image : List Byte) (t : List TableEntry) : List LoadCheck :=
  stationChecks (sectionBytes 1 none image t) ++
    subscriptionChecks (sectionBytes 3 none image t) ++
    ((entryNumbers 8).flatMap fun n => channelChecks n (sectionBytes 2 (some n) image t)) ++
    ((entryNumbers 2).flatMap fun n => pathChecks n (sectionBytes 4 (some n) image t))

/-! ## Reading the image (R199) -/

def readStation (bs : List Byte) : StationCfg :=
  { number := field bs 0 1, bitRate := field bs 1 1, strayK := field bs 2 1, waitW := field bs 3 2
    holdH := field bs 5 1
    filterSteps := ⟨field bs 6 1, field bs 7 1, field bs 8 1, field bs 9 1⟩
    pOp := field bs 10 1, quota := field bs 11 1, nInv := field bs 12 1, yInv := field bs 13 2
    share := field bs 15 2, mask := bs.getD 17 0, countUnrecorded := field bs 18 1 % 2 == 1
    o2Cap := field bs 19 2, minRun := field bs 21 1, holdoff := field bs 22 1 }

def readSubs (bs : List Byte) : List SubPair :=
  (entryNumbers (field bs 0 1)).map fun m => ⟨field bs (2 * m - 1) 1, field bs (2 * m) 1⟩

def readSource (bs : List Byte) (off : Nat) : RefSource :=
  match field bs off 1 with
  | 1 =>
    match chanOf (field bs (off + 1) 1) with
    | some c => .local_ c
    | none => .none
  | 2 => .subscription (field bs (off + 1) 1)
  | _ => .none

def readCal (bs : List Byte) (off : Nat) : CalSet := ⟨field bs off 4, signedField bs (off + 4) 4⟩

def readValve (bs : List Byte) (j : Nat) : ValveEntry :=
  let off := 54 + 5 * j
  ⟨field bs off 1, (checkKindOf (field bs (off + 1) 1)).getD .zero, field bs (off + 2) 3 - 40000⟩

def readChannel (bs : List Byte) : ChannelCfg :=
  { enable := field bs 1 1 % 2 == 1, publish := field bs 1 1 / 2 % 2 == 1
    kind := (kindOf (field bs 2 1)).getD .flow, path := field bs 3 1, expected := field bs 4 1
    sMin := field bs 5 1, setA := readCal bs 6
    setB := if field bs 14 1 % 2 = 1 then some ⟨readCal bs 15, readIStamp bs 23⟩ else none
    basisT := field bs 28 1 % 2 == 1, basisP := field bs 28 1 / 2 % 2 == 1
    basisDry := field bs 28 1 / 4 % 2 == 1, basisO2 := field bs 28 1 / 8 % 2 == 1
    o2Wet := field bs 28 1 / 16 % 2 == 1, o2Ref := field bs 29 2, srcT := readSource bs 31
    srcP := readSource bs 33, srcH := readSource bs 35, srcO2 := readSource bs 37
    limA := field bs 39 3, limB := field bs 42 3, limD := field bs 45 3, cip := field bs 48 1
    driftK := field bs 49 3, driftH := field bs 52 3, driftHard := field bs 55 3
    valves := (entryNumbers (field bs 58 1)).map (readValve bs) }

def readPath (bs : List Byte) : PathCfg :=
  { settle := field bs 1 2, measure := field bs 3 2, purge := field bs 5 2, ceiling := field bs 7 2
    schedule := (entryNumbers (field bs 9 1)).map fun m =>
      let off := 6 + 4 * m
      ⟨field bs off 1, field bs (off + 1) 1, field bs (off + 2) 1, field bs (off + 3) 1⟩ }

def readImage (image : List Byte) (t : List TableEntry) : Image :=
  let sub := sectionBytes 3 none image t
  { station := readStation (sectionBytes 1 none image t)
    subs := readSubs sub
    plantSource := if field sub 13 1 = 0 then none else some (field sub 13 1)
    chans := Eight.build fun c => readChannel (sectionBytes 2 (some (chanNumber c)) image t)
    path1 := readPath (sectionBytes 4 (some 1) image t)
    path2 := readPath (sectionBytes 4 (some 2) image t) }

/-! ## Cross-field checks (R189) -/

/-- One check of each channel, in rising order; `applies` picks the channels it is made for. -/
def eachChannel (img : Image) (applies : ChannelCfg → Bool) (off : Nat) (ok : ChannelCfg → Bool) :
    List LoadCheck :=
  allChans.map fun c =>
    let cfg := img.chans.get c
    (!applies cfg || ok cfg, ⟨7, 2, chanNumber c, off, 0⟩)

/-- Check 4: a later valve entry does not share a code with an earlier one. -/
def valveTwice (number : Nat) : Nat → List Nat → List ValveEntry → List LoadCheck
  | _, _, [] => []
  | j, codes, v :: vs =>
    (!(codes.contains v.code), ⟨7, 2, number, 54 + 5 * j, j⟩) ::
      valveTwice number (j + 1) (codes ++ [v.code]) vs

/-- The references a channel needs, each with the offset of its source and its kind (R54). -/
def neededRefs (cfg : ChannelCfg) : List (Nat × Kind × RefSource) :=
  if cfg.isPollutant then
    (if cfg.basisT then [(31, .temperature, cfg.srcT)] else []) ++
      (if cfg.basisP then [(33, .pressure, cfg.srcP)] else []) ++
      (if cfg.needsH then [(35, .moisture, cfg.srcH)] else []) ++
      (if cfg.basisO2 then [(37, .oxygen, cfg.srcO2)] else [])
  else []

/-- A check of each needed reference of each channel. -/
def eachReference (img : Image) (ok : Kind → RefSource → Bool) : List LoadCheck :=
  allChans.flatMap fun c =>
    (neededRefs (img.chans.get c)).map fun r =>
      (ok r.2.1 r.2.2, ⟨7, 2, chanNumber c, r.1, 0⟩)

/-- Check 8: a LOCAL source is an enabled channel of the matching kind. -/
def localMatches (img : Image) (kind : Kind) : RefSource → Bool
  | .local_ c => (img.chans.get c).enable && (img.chans.get c).kind == kind
  | _ => true

/-- Check 9: a SUBSCRIPTION source is not above the entry count. -/
def entryExists (img : Image) : RefSource → Bool
  | .subscription n => decide (n ≤ img.subs.length)
  | _ => true

/-- Check 6: a later value entry does not name the pair of an earlier one. -/
def pairTwice : Nat → List SubPair → List SubPair → List LoadCheck
  | _, _, [] => []
  | m, earlier, p :: ps =>
    (!(earlier.contains p), ⟨7, 3, 0, 2 * m - 1, m⟩) :: pairTwice (m + 1) (earlier ++ [p]) ps

/-- A check of each schedule entry of both paths. -/
def eachSchedule (img : Image) (ok : Path → ScheduleEntry → Bool) : List LoadCheck :=
  [Path.one, Path.two].flatMap fun p =>
    (withPlaces 1 (img.path p).schedule).map fun e =>
      (ok p e.2, ⟨7, 4, p.number, 6 + 4 * e.1, e.1⟩)

/-- The checks of R189, in the order of its table. -/
def crossChecks (img : Image) : List LoadCheck :=
  eachChannel img (·.enable) 5 (fun c => decide (c.sMin ≤ c.expected)) ++
  eachChannel img (fun _ => true) 23 (fun c => match c.setB with
    | some b => decide (b.effective.day ≤ lastDayOf b.effective.year)
    | none => true) ++
  eachChannel img (·.isPollutant) 42 (fun c => decide (c.limB ≤ c.limA)) ++
  (allChans.flatMap fun c =>
    let cfg := img.chans.get c
    if cfg.enable && (pathOf cfg.path).isSome then valveTwice (chanNumber c) 1 [] cfg.valves
    else []) ++
  ((withPlaces 1 img.subs).map fun p =>
    (p.2.station != img.station.number, (⟨7, 3, 0, 2 * p.1 - 1, p.1⟩ : LoadRefusal))) ++
  [(img.plantSource != some img.station.number, ⟨7, 3, 0, 13, 0⟩)] ++
  pairTwice 1 [] img.subs ++
  eachReference img (fun _ src => src != .none) ++
  eachReference img (localMatches img) ++
  eachReference img (fun _ src => entryExists img src) ++
  ([Path.one, Path.two].map fun p =>
    (decide ((img.path p).purge ≤ (img.path p).ceiling),
      (⟨7, 4, p.number, 7, 0⟩ : LoadRefusal))) ++
  eachSchedule img (fun _ e => decide (e.phase < e.period)) ++
  eachSchedule img (fun p e => img.valveUsed p e.code)

/-! ## The outcome (R184, R185, R190) -/

/-- The first refusal of an image read whole, from the CRC on; `none` when it passes. The stages are
tried one after another, so a later one is judged only when the earlier ones pass. For the CRC the section
byte is 0, HEADER, where R199 fixes the field byte alone (DESIGN CHOICE, log 11). -/
def imageRefusal (image : List Byte) (count : Nat) : Option LoadRefusal :=
  let t := readTable count image
  if !crcGood image then some ⟨3, 0, 0, 0, 0⟩
  else
    match firstBad (tableChecks count image.length 1 [] t) with
    | some r => some r
    | none =>
      match firstBad (countChecks image t) with
      | some r => some r
      | none =>
        match firstBad (rangeChecks image t) with
        | some r => some r
        | none => firstBad (crossChecks (readImage image t))

/-- The station number and bit rate a refused image joins the bus with (R158, R190). -/
def joinOf (image : List Byte) (count : Nat) : Option Joined :=
  if crcGood image then
    match (readTable count image).filter fun e => e.type == 1 with
    | [e] =>
      let number := field image e.offset 1
      let rate := field image (e.offset + 1) 1
      if decide (e.offset + e.length ≤ image.length) && inRange 1 31 number && inRange 1 3 rate then
        some ⟨number, rate⟩
      else none
    | _ => none
  else none

end Sys2Proof.Machine
end

