-- ==== Sys2Proof/Machine/Loading.lean ====
section
/-! DEFINITION. The Configuration Loader (spec/10, R182, R190, R191). -/

namespace Sys2Proof.Machine

/-- Loading ends with a refusal (R190): HALTED for CONFIG, joined or not. A MARK line already low starts
no timer of the Mark Unit (DESIGN CHOICE, log 43). -/
def refuseImage (r : LoadRefusal) (joined : Option Joined) (s : State) : State :=
  { s with
    loader :=
      { station := .halted, phase := .done, haltReason := some .config, refusal := some r
        image := none }
    mark := s.mark.halt
    bus := { s.bus with joined := joined, mediumIdle := false } }

/-- Loading ends without a refusal (R191): the blocks take up the image. A MARK line already low starts no
low check and no 100 ms of R39 before its next sensed fall (DESIGN CHOICE, log 43). -/
def acceptImage (img : Image) (s : State) : State :=
  beginMount { s with
    loader :=
      { station := .mounting, phase := .done, haltReason := none, refusal := none
        image := some img }
    bus := { s.bus with
      joined := some ⟨img.station.number, img.station.bitRate⟩, mediumIdle := false }
    filter := { level := s.pins.raw, timer := ⟨none, none, none, none⟩ }
    exch := { s.exch with entries := img.subs.map fun _ => ValueEntry.reset } }

/-- The header has been read (R183). -/
def headerRead (head : List Byte) (s : State) : State :=
  match firstBad (headerChecks head) with
  | some r => refuseImage r none s
  | none => { s with loader := { s.loader with phase := .image head } }

/-- The image has been read (R184 to R191), its header a second time. The section count and the length are
those of the first reading, the CRC and its item those of the second (DESIGN CHOICE, log 49). -/
def imageRead (head image : List Byte) (s : State) : State :=
  match imageRefusal image (headerCount head) with
  | some r => refuseImage r (joinOf image (headerCount head)) s
  | none => acceptImage (readImage image (readTable (headerCount head) image)) s

/-- A read of a number of bytes ends: not acknowledged, it refuses at stage READ (R182), the section byte of
the refusal record 0, HEADER, where R199 fixes the field byte alone (DESIGN CHOICE, log 11); with another
number of bytes it is no end of this read (log 9). -/
def endEepromRead (ack : Bool) (bytes : List Byte) (len : Nat) (use : State → State) (s : State) :
    State :=
  if !ack then refuseImage ⟨1, 0, 0, 0, 0⟩ none s
  else if bytes.length = len then use s
  else s

/-- EEPROM_READ_DONE (R182). -/
def execEepromReadDone (ack : Bool) (bytes : List Byte) (s : State) :
    Host.Outcome State Fault Refusal :=
  match s.loader.phase with
  | .header => .next (endEepromRead ack bytes imageHeaderLen (headerRead bytes) s)
  | .image head => .next (endEepromRead ack bytes (headerImageLen head) (imageRead head bytes) s)
  | _ => .next s

end Sys2Proof.Machine
end

