-- ==== Sys2Proof/Machine/Time.lean ====
section
/-! DEFINITION. The passing of time: the events that are due, and one millisecond of the clock
(DESIGN CHOICE, log 1 and log 2). -/

namespace Sys2Proof.Machine

/-- A timer that runs has come to its end. -/
def timerDue (t : Timer) : Bool := t == some 0

/-- An event where its condition holds. -/
def dueWhen (b : Bool) (i : Instr) : List Instr := if b then [i] else []

def dueFilter (s : State) : List Instr :=
  [StatusInput.feed, .burner, .rdy1, .rdy2].flatMap fun i =>
    dueWhen (timerDue (s.filter.timer.get i)) (.filterTimerExpiry i)

/-- The events of the Mark Unit that are due (R30 to R40). The station's own pulse makes the line
fall. -/
def dueMark (s : State) : List Instr :=
  let m := s.mark
  dueWhen (decide (m.boundary ≤ 29) && decide (60000 * m.boundary ≤ s.clockValue)) .minuteBoundary ++
  dueWhen (decide (intervalLength ≤ s.clockValue)) .ownExpiry ++
  dueWhen (timerDue m.pulse) .markPulseEnd ++
  dueWhen (s.markDriven && !s.pins.markLow && s.sensing) .markFall ++
  dueWhen (timerDue m.lowCheck) .lowCheckExpiry ++
  dueWhen (timerDue m.holdOff) .holdOffExpiry ++
  dueWhen (timerDue m.stuckTimer) .markStuck ++
  dueWhen (timerDue m.recovery) .markNormal

def dueMinutes (s : State) : List Instr :=
  (withPlaces 0 s.exch.minutes).flatMap fun p =>
    dueWhen (timerDue p.2.deadline) (.minuteDeadlineExpiry p.1)

def dueCheck (s : State) : List Instr :=
  match s.chk.current with
  | none => []
  | some c =>
    match c.progress with
    | .settle left => dueWhen (left == 0) .settleExpiry
    | .measure left => dueWhen (left == 0) .measureExpiry
    | .purge left ceiling _ =>
      dueWhen (timerDue left) .purgeTimerExpiry ++ dueWhen (ceiling == 0) .purgeCeiling

def dueBus (s : State) : List Instr :=
  dueWhen (s.bus.queue.any fun f => f.stale && !f.inFlight) .minuteFrameStale ++
  dueWhen (timerDue s.bus.duplicate) .duplicateTimerExpiry ++
  dueWhen (timerDue s.bus.restart) .restartTimerExpiry

/-- The limits and timers of the operation in flight (R141 to R143). -/
def dueFlash (s : State) : List Instr :=
  match s.arch.activity with
  | .programming p => dueWhen (p.left == 0) .programTimeout
  | .erasing er =>
    dueWhen (!s.arch.reads.isEmpty && decide (s.cfg.station.minRun ≤ er.run)) .eraseMinRun ++
    dueWhen (decide (eraseLimit er.step ≤ er.limit)) .eraseTimeout
  | .suspendedHold _ left => dueWhen (left == 0) .eraseHoldoffExpiry
  | _ => []

def dueResume (s : State) : List Instr :=
  match s.arch.resume with
  | .submit _ _ => dueWhen (decide (s.arch.queue.length < 16)) .resumeQueueRoom
  | _ => []

def dueFetch (s : State) : List Instr :=
  match s.arch.fetch with
  | none => []
  | some ft =>
    dueWhen (!ft.reading && decide (s.bus.queue.length < 12)) .fetchNextRead ++
    dueWhen (ft.timer == 0) .fetchAbandon

/-- The events of the station's own making that are due. -/
def due (s : State) : List Instr :=
  dueFilter s ++ dueMark s ++ dueMinutes s ++ dueCheck s ++ dueBus s ++ dueFlash s ++ dueResume s ++
    dueFetch s

/-! ## One millisecond -/

def Timer.tick (t : Timer) : Timer := t.map (· - 1)

def Inputs.tick (t : Inputs Timer) : Inputs Timer :=
  ⟨Timer.tick t.feed, Timer.tick t.burner, Timer.tick t.rdy1, Timer.tick t.rdy2⟩

def MarkUnit.tick (m : MarkUnit) : MarkUnit :=
  { m with
    clock := m.clock.map (· + 1), holdOff := Timer.tick m.holdOff
    lowCheck := Timer.tick m.lowCheck, stuckTimer := Timer.tick m.stuckTimer
    recovery := Timer.tick m.recovery, pulse := Timer.tick m.pulse }

def Progress.tick : Progress → Progress
  | .settle left => .settle (left - 1)
  | .measure left => .measure (left - 1)
  | .purge left ceiling served => .purge (Timer.tick left) (ceiling - 1) served

def Activity.tick : Activity → Activity
  | .programming p => .programming { p with left := p.left - 1 }
  | .erasing er => .erasing { er with run := er.run + 1, limit := er.limit + 1 }
  | .suspendedHold er left => .suspendedHold er (left - 1)
  | a => a

/-- The age of a MINUTE frame (R163). -/
def TxFrame.tick (f : TxFrame) : TxFrame := if f.kind = 1 then { f with age := f.age + 1 } else f

def Bus.tick (b : Bus) : Bus :=
  { b with
    queue := b.queue.map TxFrame.tick, duplicate := Timer.tick b.duplicate
    restart := Timer.tick b.restart }

def Archive.tick (a : Archive) : Archive :=
  { a with
    activity := a.activity.tick
    fetch := a.fetch.map fun ft => { ft with timer := ft.timer - 1 } }

def CheckUnit.tick (u : CheckUnit) : CheckUnit :=
  { u with current := u.current.map fun c => { c with progress := c.progress.tick } }

def Exchange.tick (ex : Exchange) : Exchange :=
  { ex with minutes := ex.minutes.map fun m => { m with deadline := Timer.tick m.deadline } }

/-- One millisecond passes. -/
def tick (s : State) : State :=
  { s with
    filter := { s.filter with timer := Inputs.tick s.filter.timer }
    mark := s.mark.tick, exch := s.exch.tick, chk := s.chk.tick, arch := s.arch.tick
    bus := s.bus.tick }

/-- What the station does while no command waits (log 1): a due event is put in the queue, which one
of several being free (log 2); with none due, a millisecond passes. -/
def idle (s : State) : State :=
  match due s with
  | [] => tick s
  | i :: is =>
    let l := i :: is
    { s with
      pending := [l.getD (Config.pickDue s.draws % l.length) i]
      draws := s.draws + 1 }

end Sys2Proof.Machine
end

