-- ==== Sys2Proof/Machine/Dispatch.lean ====
section
/-! DEFINITION. One arm per command. -/

namespace Sys2Proof.Machine

def exec (i : Instr) (s : State) : Host.Outcome State Fault Refusal :=
  match i with
  | .powerUp => Sys2Proof.Machine.execPowerUp s
  | .resetPin => Sys2Proof.Machine.execResetPin s
  | .resetPeriodEnd => Sys2Proof.Machine.execResetPeriodEnd s
  | .eepromReadDone ack bytes => Sys2Proof.Machine.execEepromReadDone ack bytes s
  | .sampleWord word => Sys2Proof.Machine.execSampleWord word s
  | .sampleFrameAbort => Sys2Proof.Machine.execSampleFrameAbort s
  | .statusInputEdge input level => Sys2Proof.Machine.execStatusInputEdge input level s
  | .filterTimerExpiry input => Sys2Proof.Machine.execFilterTimerExpiry input s
  | .minuteBoundary => Sys2Proof.Machine.execMinuteBoundary s
  | .ownExpiry => Sys2Proof.Machine.execOwnExpiry s
  | .markPulseEnd => Sys2Proof.Machine.execMarkPulseEnd s
  | .markFall => Sys2Proof.Machine.execMarkFall s
  | .markRise => Sys2Proof.Machine.execMarkRise s
  | .lowCheckExpiry => Sys2Proof.Machine.execLowCheckExpiry s
  | .holdOffExpiry => Sys2Proof.Machine.execHoldOffExpiry s
  | .markStuck => Sys2Proof.Machine.execMarkStuck s
  | .markNormal => Sys2Proof.Machine.execMarkNormal s
  | .timeFrame frame => Sys2Proof.Machine.execTimeFrame frame s
  | .summaryFrame frame => Sys2Proof.Machine.execSummaryFrame frame s
  | .minuteFrame frame => Sys2Proof.Machine.execMinuteFrame frame s
  | .minuteDeadlineExpiry place => Sys2Proof.Machine.execMinuteDeadlineExpiry place s
  | .checkRequest frame => Sys2Proof.Machine.execCheckRequest frame s
  | .settleExpiry => Sys2Proof.Machine.execSettleExpiry s
  | .measureExpiry => Sys2Proof.Machine.execMeasureExpiry s
  | .purgeTimerExpiry => Sys2Proof.Machine.execPurgeTimerExpiry s
  | .purgeCeiling => Sys2Proof.Machine.execPurgeCeiling s
  | .driftReset frame => Sys2Proof.Machine.execDriftReset frame s
  | .release frame => Sys2Proof.Machine.execRelease frame s
  | .fetch frame => Sys2Proof.Machine.execFetch frame s
  | .status frame => Sys2Proof.Machine.execStatus frame s
  | .restart frame => Sys2Proof.Machine.execRestart frame s
  | .unknownKind kind frame => Sys2Proof.Machine.execUnknownKind kind frame s
  | .badFrame line => Sys2Proof.Machine.execBadFrame line s
  | .duplicateStation kind frame => Sys2Proof.Machine.execDuplicateStation kind frame s
  | .frameDisregarded kind frame => Sys2Proof.Machine.execFrameDisregarded kind frame s
  | .mediumIdle => Sys2Proof.Machine.execMediumIdle s
  | .contentionLost => Sys2Proof.Machine.execContentionLost s
  | .attemptSuccess => Sys2Proof.Machine.execAttemptSuccess s
  | .attemptFailure => Sys2Proof.Machine.execAttemptFailure s
  | .minuteFrameStale => Sys2Proof.Machine.execMinuteFrameStale s
  | .duplicateTimerExpiry => Sys2Proof.Machine.execDuplicateTimerExpiry s
  | .restartTimerExpiry => Sys2Proof.Machine.execRestartTimerExpiry s
  | .flashReadDone => Sys2Proof.Machine.execFlashReadDone s
  | .flashProgramDone ok => Sys2Proof.Machine.execFlashProgramDone ok s
  | .programTimeout => Sys2Proof.Machine.execProgramTimeout s
  | .flashEraseDone ok => Sys2Proof.Machine.execFlashEraseDone ok s
  | .eraseTimeout => Sys2Proof.Machine.execEraseTimeout s
  | .eraseMinRun => Sys2Proof.Machine.execEraseMinRun s
  | .eraseHoldoffExpiry => Sys2Proof.Machine.execEraseHoldoffExpiry s
  | .resumeQueueRoom => Sys2Proof.Machine.execResumeQueueRoom s
  | .fetchNextRead => Sys2Proof.Machine.execFetchNextRead s
  | .fetchAbandon => Sys2Proof.Machine.execFetchAbandon s
  | .mediumBusy => Sys2Proof.Machine.execMediumBusy s

end Sys2Proof.Machine
end

