-- ==== Sys2Proof/Machine/Pins.lean ====
section
/-! DEFINITION. The pins as the station shows them (spec/11, R200, with spec/10, R179): the levels of the
outputs, read off the state, and which inputs are taken. -/

namespace Sys2Proof.Machine

/-- What the station does with its output pins (R200). VALVE2 is the most significant bit of `valve`.
MARK, ECL and EDA are open drain: pulled low or released. ALERT is active low: pulled low or released.
BUSA and BUSB are recessive unless driven. `fcs`, `fck` and `fdo` give a level (`true` is high) while the
flash line rests, and none during an exchange, whose signal timing spec/00 leaves to the data sheet. -/
structure PinOutputs where
  valve : BitVec 3
  markPulled : Bool
  alertPulled : Bool
  busDriven : Bool
  fcs : Option Bool
  fck : Option Bool
  fdo : Option Bool
  configUsed : Bool
  deriving DecidableEq, Repr

/-- Loading has not ended: a reset period, or the reads of the image (R179, R181). -/
def State.loadingPins (s : State) : Bool := s.loader.station == .loading

/-- An exchange is under way on the archive flash line. -/
def State.flashUsed (s : State) : Bool := !s.loadingPins && s.arch.activity != .idle

/-- The configuration line is in use by the loader: from the end of the reset period until loading ends
(R182, R200). -/
def State.configUsed (s : State) : Bool :=
  match s.loader.phase with
  | .header => true
  | .image _ => true
  | .off => false
  | .done => false

/-- The station sends on the bus: it has joined it, and a frame is in flight (R158, R161). -/
def State.busDriven (s : State) : Bool := s.bus.joined.isSome && s.bus.inFlight.isSome

/-- The pin table of R200: until loading ends VALVE is driven 0 and MARK is released; from then on each
pin follows the rule that owns it. ALERT follows R175 throughout. R200 gives FCS, FCK and FDO their levels
until loading ends; that FCS stays high, FCK and FDO low after it while no flash operation is in flight is
the model's (DESIGN CHOICE, log 46). -/
def State.outputs (s : State) : PinOutputs :=
  { valve := if s.loadingPins then 0 else BitVec.ofNat 3 s.valve
    markPulled := !s.loadingPins && s.markDriven
    alertPulled := s.alertActive
    busDriven := !s.loadingPins && s.busDriven
    fcs := if s.flashUsed then none else some true
    fck := if s.flashUsed then none else some false
    fdo := if s.flashUsed then none else some false
    configUsed := s.configUsed }

/-- SCK, SDI and SFR are taken (R3): a word counts only while RECORDING. -/
def State.sampleTaken (s : State) : Bool := s.recording

/-- BUSA and BUSB are received (R158): from the join on. -/
def State.busReceived (s : State) : Bool := s.bus.joined.isSome

/-- The outputs during a reset period (R179, R200). -/
def PinOutputs.reset : PinOutputs :=
  { valve := 0, markPulled := false, alertPulled := true, busDriven := false, fcs := some true
    fck := some false, fdo := some false, configUsed := false }

end Sys2Proof.Machine
end

