-- ==== Sys2Proof/Safety.lean ====
section
/-! DEFINITION. What counts as a safe run: the form of the flash, the bounds the spec gives the queues
and lists, and the station state in keeping with what the blocks do; and what the close of a recorded
interval and the end of a purge leave, said once for the statements. -/

namespace Sys2Proof.Machine

/-- The flash is in canonical form. -/
def State.flashOk (s : State) : Prop := flashWf s.flash = true

/-- The transmit queue holds at most 12 frames (R163). -/
def State.transmitOk (s : State) : Prop := s.bus.queue.length ≤ 12

/-- The record queue holds at most 16 jobs (R136). -/
def State.recordsOk (s : State) : Prop := s.arch.queue.length ≤ 16

/-- The pending minute list holds at most two minutes (R61). -/
def State.minutesOk (s : State) : Prop := s.exch.minutes.length ≤ 2

/-- A reset period goes with a loader that is off, loading with LOADING, mount with MOUNTING,
resumption with RESUMING (R179, R181). -/
structure State.InKeeping (s : State) : Prop where
  held : s.pins.resetHeld = true → s.loader.phase = .off
  loading : s.loader.phase ≠ .done → s.loader.station = .loading
  mounting : s.arch.mount ≠ .off → s.loader.station = .mounting
  resuming : s.arch.resume ≠ .off → s.loader.station = .resuming

/-- The check queue holds at most four pairs, no two alike and none that is in progress; with no check in
progress it is empty (R113, R114, R126). -/
structure State.ChecksOk (s : State) : Prop where
  bound : s.chk.queue.length ≤ 4
  distinct : s.chk.queue.Nodup
  apart : ∀ c, s.chk.current = some c → c.pair ∉ s.chk.queue
  idle : s.chk.current = none → s.chk.queue = []

/-- The erase list holds at most three areas (R142). -/
def State.erasesOk (s : State) : Prop := s.arch.erases.length ≤ 3

/-- The OPEN areas that mount has still to close (R152). -/
def Archive.todo (a : Archive) : List Area :=
  match a.mount with
  | .closing todo => todo
  | _ => []

/-- At most one area is OPEN, beside those that mount has read and has still to close; an opening is
programmed only with no area OPEN; mount programs the marker of the area it closes next (R134, R152). -/
structure State.OneOpen (s : State) : Prop where
  one : ∀ t i j, s.arch.table = some t → (∀ got steps, s.arch.mount ≠ .headers got steps) →
    i ∉ s.arch.todo → j ∉ s.arch.todo →
    (t.get i).state = .opened → (t.get j).state = .opened → i = j
  opening : ∀ p i year, s.arch.activity = .programming p → p.purpose = .opening i year →
    s.arch.openArea = none
  closing : ∀ p i todo, s.arch.activity = .programming p → p.purpose = .mountClose i →
    s.arch.mount = .closing todo → todo.head? = some i

/-- The interval clock stops at 0 or runs to 1,800,000 ms at most (R30); the strays number 7 at most, and
while LOCKED fewer than K (R36, R37); nothing runs before loading ends (R50). -/
structure State.ClockOk (s : State) : Prop where
  clock : ∀ c, s.mark.clock = some c → c ≤ 1800000
  limit : 1 ≤ s.cfg.station.strayK ∧ s.cfg.station.strayK ≤ 7
  strays : s.mark.strays ≤ 7
  locked : s.mark.sync = .locked → s.mark.strays < s.cfg.station.strayK
  loading : s.loader.phase ≠ .done →
    s.mark.clock = none ∧ s.mark.sync = .stopped ∧ s.mark.strays = 0

/-- The commands that bring a reset (R179). -/
def bringsReset : Instr → Bool
  | .powerUp => true
  | .resetPin => true
  | .attemptSuccess => true
  | .restartTimerExpiry => true
  | _ => false

/-- The moves of the table of R181, with the moves that one event takes through RESUMING. -/
def movesTo : StationState → StationState → Bool
  | .loading, .mounting => true
  | .loading, .halted => true
  | .mounting, .unsynced => true
  | .unsynced, .resuming => true
  | .unsynced, .aligning => true
  | .unsynced, .halted => true
  | .resuming, .aligning => true
  | .resuming, .halted => true
  | .aligning, .recording => true
  | _, _ => false

/-! ## What a close leaves -/

/-- What the close of a recorded interval leaves: `s` before it, `stamp` the closing stamp, `n` the notice
of R31. The calibration switch, the new entry, slot 0 and the schedules belong to the interval that
starts. -/
structure RecordedClose (s t : State) (stamp : IStamp) (n : Notice) : Prop where
  /-- The station stays RECORDING, slot 0 open at 0 (R6, R9). -/
  slot : t.loader.station = .recording ∧ t.port.openMin = some ⟨0, 0⟩
  /-- A channel uses set B from here on that used it, or that has a set B effective at or before the
  interval that starts (R14). -/
  switched : ∀ c, (t.port.setB.get c = true ↔ s.port.setB.get c = true ∨
    ((s.cfg.chans.get c).enable = true ∧ ∃ b, (s.cfg.chans.get c).setB = some b ∧
      b.effective.atOrBefore stamp.advance = true))
  /-- Every per-interval mark of the reference events is clear (R66). -/
  marks : (∀ e ∈ t.exch.entries, e.eventMark = false) ∧
    ∀ c, (t.exch.locals.get c).eventMark = false
  /-- An open minute that has run becomes the last one, full from 60,000 ms on. While its references are
  missing it waits, the notice attached to its entry and the new entry behind it; complete, it resolves,
  and the interval with it (R9, R58, R64, R86, R87). -/
  minute : ∀ o pm e, s.port.openMin = some o → o.start < n.length → s.exch.minutes = [] →
    s.eng.intervals = [e] →
    pm = newPending ⟨stamp, o.slot⟩ s.localPlant
      (minuteResults (decide (60000 ≤ n.length - o.start)) s) true s →
    ∃ next, next.stamp = stamp.advance ∧ next.notice = none ∧
      (∀ c, next.switched.get c = true ↔
        t.port.setB.get c = true ∧ s.port.setB.get c = false) ∧
      (pm.complete s.cfg = false → t.exch.minutes = [pm] ∧ t.exch.history = s.exch.history ∧
        t.eng.intervals = [{ e with notice := some n }, next] ∧ t.eng.acc = s.eng.acc) ∧
      (pm.complete s.cfg = true → t.exch.minutes = [] ∧
        t.exch.history = (pm.stamp :: s.exch.history).take 6 ∧
        t.eng.intervals = [next] ∧ t.eng.acc = IntervalAcc.cleared)
  /-- An open minute of no length is discarded: the interval's latest pending minute takes the last mark,
  and with none pending the interval ends in the close (R9, R64). -/
  discarded : ∀ o e, s.port.openMin = some o → n.length ≤ o.start → s.eng.intervals = [e] →
    (s.exch.minutes = [] → t.exch.minutes = [] ∧ t.exch.history = s.exch.history ∧
      t.eng.intervals.length = 1 ∧ t.eng.acc = IntervalAcc.cleared) ∧
    ∀ q, s.exch.minutes = [q] → q.stamp.interval = stamp →
      t.exch.minutes = [{ q with last := true }] ∧
      t.eng.intervals.head? = some { e with notice := some n } ∧ t.eng.intervals.length = 2
  /-- Without a schedule no check starts; with one entry on path 1 that is due, and no check in progress or
  waiting, its check starts; not due, none does (R115, R116). -/
  schedules : s.cfg.path2.schedule = [] →
    (s.cfg.path1.schedule = [] → t.chk = s.chk) ∧
    ∀ e, s.cfg.path1.schedule = [e] →
      (stamp.advance.index ≠ e.index ∨ (stamp.advance.day - 1) % e.period ≠ e.phase →
        t.chk = s.chk) ∧
      (stamp.advance.index = e.index → (stamp.advance.day - 1) % e.period = e.phase →
        s.cfg.valveUsed .one e.code = true → s.chk.current = none → s.chk.queue = [] →
        t.chk = { s.chk with
          current := some ⟨⟨.one, e.code⟩, .settle (1000 * s.cfg.path1.settle)⟩ })

/-- What the end of a purge leaves (R126): the path is IDLE, or the head of the check queue has left it
and started: SETTLE for its settle time, the open minute of its path's channels CHECKED. -/
structure PurgeEnded (s t : State) : Prop where
  none_waits : s.chk.queue = [] → t.chk = { s.chk with current := none } ∧ t.port = s.port
  next_starts : ∀ q rest, s.chk.queue = q :: rest →
    t.chk = { s.chk with
      current := some ⟨q, .settle (1000 * (s.cfg.path q.path).settle)⟩, queue := rest } ∧
    t.port = { s.port with acc := t.port.acc } ∧
    (s.port.openMin.isSome = true → ∀ c, t.port.acc.get c =
      { s.port.acc.get c with
        checked := (s.port.acc.get c).checked || (s.cfg.chans.get c).onPath q.path })

/-- A run is safe when every step from it answers a next state. -/
def safeRun : Nat → State → Prop
  | 0, _ => True
  | n + 1, s => ∃ t, step s = .next t ∧ safeRun n t

end Sys2Proof.Machine
end

