-- ==== Sys2Proof/Certificates/Slice0/Obligations.lean ====
section
/-! DEFINITION. The statements for the provers. A statement whose conclusion is `t = { s with … := t.… }`
says that every block not named there is unchanged. -/

open Sys2Proof Sys2Proof.Machine

/-! ## The machine -/

/-- A step with a command at the front of the queue is exec of that command on the state with the
queue's rest. The spec's steps are its events, each whole and indivisible; that they wait in a queue, first
in first out, is the model's choice (logs 1 and 5). -/
def Obligations.StepRunsFrontCommand : Prop :=
  ∀ (c : Instr) (rest : List Instr) (s : State),
    step { s with pending := c :: rest } = exec c { s with pending := rest }

/-- No command touches the queue of waiting commands. The queue is the model's choice (log 5). -/
def Obligations.CommandsLeaveTheQueue : Prop :=
  ∀ (i : Instr) (s t : State), exec i s = .next t → t.pending = s.pending

/-- Every step keeps the flash in canonical form. -/
def Obligations.FlashFormKept : Prop :=
  ∀ s t : State, s.flashOk → step s = .next t → t.flashOk

/-- Every step keeps the transmit queue at 12 frames or fewer. -/
def Obligations.TransmitQueueBoundKept : Prop :=
  ∀ s t : State, s.transmitOk → step s = .next t → t.transmitOk

/-- Every step keeps the record queue at 16 jobs or fewer, the erase list at three areas or fewer, and at
most one area OPEN beside those that mount has still to close. -/
def Obligations.RecordQueueBoundKept : Prop :=
  ∀ s t : State, step s = .next t →
    (s.recordsOk → t.recordsOk) ∧ (s.erasesOk → t.erasesOk) ∧ (s.OneOpen → t.OneOpen)

/-- Every step keeps the pending minute list at two minutes or fewer, and the check queue at four pairs or
fewer, no two alike, none that is in progress, and empty with no check in progress. -/
def Obligations.PendingMinuteBoundKept : Prop :=
  ∀ s t : State, step s = .next t →
    (s.minutesOk → t.minutesOk) ∧ (s.ChecksOk → t.ChecksOk)

/-- Every step keeps the station state in keeping with the loader, mount and resumption, and with them
the interval clock at 1,800,000 ms or less and the strays at 7 or fewer, below K while LOCKED. -/
def Obligations.StationInKeepingKept : Prop :=
  ∀ s t : State, s.InKeeping → step s = .next t → t.InKeeping ∧ (s.ClockOk → t.ClockOk)

/-- The state after reset meets every invariant of this file, and it is LOADING with the archive not
mounted, the calendar absent and no station on the bus. -/
def Obligations.ResetMeetsTheInvariants : Prop :=
  State.reset.flashOk ∧ State.reset.transmitOk ∧ State.reset.recordsOk ∧ State.reset.minutesOk ∧
    State.reset.erasesOk ∧ State.reset.OneOpen ∧ State.reset.ChecksOk ∧ State.reset.ClockOk ∧
    State.reset.InKeeping ∧
    State.reset.loader.station = .loading ∧ State.reset.arch.condition = .notMounted ∧
    State.reset.mark.calendar = none ∧ State.reset.bus.joined = none

/-- A command that brings no reset moves the station state only along the table of R181; a reset
leaves it or moves it to LOADING. -/
def Obligations.StationMovesFollowTheTable : Prop :=
  ∀ (i : Instr) (s t : State), s.InKeeping → exec i s = .next t →
    t.loader.station = s.loader.station ∨
    (bringsReset i = true ∧ t.loader.station = .loading) ∨
    movesTo s.loader.station t.loader.station = true

/-! ## Resets and loading -/

/-- POWER_UP and RESET_PIN hold the part in reset: every block takes its value after reset, and the pins
stand as the pin table gives them for a reset period. That the raw inputs and the MARK line stay as they
are is the model's choice (log 6), that the waiting commands stay too (log 5), and that these two resets
hold their period is read from R179 (log 36). -/
def Obligations.ResetGivesResetValues : Prop :=
  ∀ (i : Instr) (s : State), i = .powerUp ∨ i = .resetPin →
    ∃ t, exec i s = .next t ∧
      t = { State.reset with
        pending := s.pending, draws := t.draws, flash := t.flash,
        pins := { s.pins with resetHeld := true } } ∧
      t.outputs = PinOutputs.reset ∧ t.sampleTaken = false ∧ t.busReceived = false ∧
      t.filtering = false ∧ t.sensing = false

/-- A reset changes no byte of the flash outside the program or erase in flight. Of a record's program it
leaves the commit byte, and of an opening's the OPEN marker, other than 00h: the slot is TORN or ERASED,
the header without a marker; and where that byte has changed at all, every byte before it stands as
given. The reset of a RESTART leaves the same station, its reset period over at once. -/
def Obligations.ResetCutsOnlyTheOperationInFlight : Prop :=
  ∀ (i : Instr) (s t : State) (a : Nat), i = .powerUp ∨ i = .resetPin ∨ i = .restartTimerExpiry →
    exec i s = .next t →
    ((∀ p, s.arch.activity = .programming p → a < p.addr ∨ p.addr + p.data.length ≤ a) →
    (∀ er, s.arch.activity = .erasing er ∨ (∃ r, s.arch.activity = .suspendedRead er r) ∨
        (∃ n, s.arch.activity = .suspendedHold er n) →
      a < (eraseRange er).1 ∨ (eraseRange er).1 + (eraseRange er).2 ≤ a) →
    flashRead t.flash a = flashRead s.flash a) ∧
    (i = .restartTimerExpiry → s.bus.restart.isSome = true →
      exec .resetPin s = .next { t with
        pins := { t.pins with resetHeld := true }, loader := { t.loader with phase := .off } }) ∧
    (∀ p data last, s.arch.activity = .programming p → i = .powerUp ∨ i = .resetPin →
      p.purpose = .record ∨ (∃ area year, p.purpose = .opening area year) →
      p.data = data ++ [last] → s.flashOk →
      flashRead t.flash (p.addr + data.length) ≠ 0x00 ∧
      (flashRead t.flash (p.addr + data.length) ≠ 0xFF →
        flashReadBytes t.flash p.addr data.length = data))

/-- The end of the reset period begins the read of the image header: the configuration line is in use,
and until loading ends every other output stands as during the reset period. While no reset is held the
command is no event (the model's choice, log 3). -/
def Obligations.ResetPeriodEndBeginsLoading : Prop :=
  ∀ s : State,
    (s.pins.resetHeld = true → exec .resetPeriodEnd s = .next
      { s with
        pins := { s.pins with resetHeld := false }
        loader := { s.loader with phase := .header } }) ∧
    (s.pins.resetHeld = false → exec .resetPeriodEnd s = .next s) ∧
    (s.loader.station = .loading → s.loader.phase ≠ .done →
      s.outputs = { PinOutputs.reset with configUsed := decide (s.loader.phase ≠ .off) })

/-- A read the EEPROM does not acknowledge halts the station: reason CONFIG, stage READ, off the bus,
the interval clock stopped. That the refusal record's section byte is 0, HEADER, and its number and entry
are 0 at that stage is the model's choice (log 11). -/
def Obligations.UnacknowledgedReadHalts : Prop :=
  ∀ (s : State) (bytes : List Byte),
    (s.loader.phase = .header ∨ ∃ h, s.loader.phase = .image h) →
    ∃ t, exec (.eepromReadDone false bytes) s = .next t ∧
      t = { s with loader := t.loader, mark := s.mark.halt, bus := t.bus } ∧
      t.loader = ⟨.halted, .done, some .config, some ⟨1, 0, 0, 0, 0⟩, none⟩ ∧
      t.bus = { s.bus with joined := none, mediumIdle := false }

/-- An image that passes every check becomes the configuration: MOUNTING, on the bus with the medium
busy, the filtered levels at the raw levels, the value entries empty, the read of area 0's header in
flight; that this read comes first is the model's choice (log 20). The fourth header read fills the area
table and the erase list; that the list takes three entries at most there is the model's choice (log 20).
The last of mount's reads, a committed day record or the first day slot found without one, completes mount:
the station is UNSYNCED, the archive READY. That the day section is read slot by slot, downward, is the
model's choice (log 20). -/
def Obligations.PassedImageIsTakenUp : Prop :=
  (∀ (s : State) (head image : List Byte), s.loader.phase = .image head →
    image.length = headerImageLen head → imageRefusal image (headerCount head) = none →
    s.arch.activity = .idle →
    ∃ t img, exec (.eepromReadDone true image) s = .next t ∧
      img = readImage image (readTable (headerCount head) image) ∧
      t.loader = ⟨.mounting, .done, none, none, some img⟩ ∧
      t.bus = { s.bus with joined := some ⟨img.station.number, img.station.bitRate⟩,
                           mediumIdle := false } ∧
      t.filter = ⟨s.pins.raw, ⟨none, none, none, none⟩⟩ ∧
      t.exch = { s.exch with entries := img.subs.map fun _ => ValueEntry.reset } ∧
      t.arch.activity = .reading ⟨.mount, 0, 4096⟩ ∧
      t = { s with loader := t.loader, bus := t.bus, filter := t.filter, exch := t.exch,
                   arch := t.arch }) ∧
  ∀ (s : State) (req : ReadReq), s.arch.activity = .reading req → req.who = .mount →
    req.addr + req.len ≤ flashSize →
    (∀ (got : List AreaEntry) (steps : List EraseEntry), s.arch.mount = .headers got steps →
      got.length = 3 →
      ∃ (t : State) (last : AreaEntry), exec .flashReadDone s = .next t ∧
        t = { s with loader := { s.loader with station := t.loader.station }, arch := t.arch } ∧
        last = headerEntry (flashReadBytes s.flash req.addr 8)
          (flashErased s.flash req.addr 4096) s.number ∧
        t.arch.table = some (tableOf (got ++ [last])) ∧
        (last.state = .erasing → t.arch.erases = List.take 3 (steps ++ [⟨3, 2⟩])) ∧
        (last.state = .released → t.arch.erases = List.take 3 (steps ++ [⟨3, 1⟩])) ∧
        (last.state ≠ .erasing → last.state ≠ .released → t.arch.erases = List.take 3 steps)) ∧
    (∀ slot i e bytes, s.arch.mount = .days slot → s.arch.openArea = some (i, e) →
      s.arch.reads = [] → s.arch.opening = none →
      bytes = flashReadBytes s.flash req.addr req.len →
      ∃ t, exec .flashReadDone s = .next t ∧
        t = { s with loader := { s.loader with station := t.loader.station }, arch := t.arch } ∧
        (slotState bytes = .committed ∨ slot = 0 → t.loader.station = .unsynced ∧
          t.arch.mount = .off ∧
          t.arch.condition = (if s.arch.condition = .fault then .fault else .ready) ∧
          t.arch.lastDay =
            (if slotState bytes = .committed then some ⟨slot + 1, bytes⟩ else s.arch.lastDay)) ∧
        (slotState bytes ≠ .committed → slot ≠ 0 → t.loader = s.loader ∧
          t.arch.mount = .days (slot - 1) ∧
          t.arch.activity = .reading ⟨.mount, slotAddr i .day (slot - 1), 320⟩))

/-! ## Samples -/

/-- A word changes nothing while the station is not RECORDING or its channel is not enabled; a frame
that ends early never changes anything. A word accumulated for its channel: an OK or OVER word joins
count and sum up to 120 words and sets SAT beyond; MAINT and FAULT words raise their tallies; the other
channels and blocks stay. -/
def Obligations.WordIsDiscardedOrAccumulated : Prop :=
  ∀ (s : State) (w : BitVec 24), exec .sampleFrameAbort s = .next s ∧
    (s.loader.station ≠ .recording ∨ (s.cfg.chans.get (wordChannel w)).enable = false →
      exec (.sampleWord w) s = .next s) ∧
    (s.loader.station = .recording → (s.cfg.chans.get (wordChannel w)).enable = true →
    s.underCheck (wordChannel w) = false →
    ∃ t a, exec (.sampleWord w) s = .next t ∧ t = { s with port := t.port } ∧
      t.port = { s.port with acc := t.port.acc } ∧
      (∀ c, c ≠ wordChannel w → t.port.acc.get c = s.port.acc.get c) ∧
      a = s.port.acc.get (wordChannel w) ∧
      (t.port.acc.get (wordChannel w)).words = satInc 255 a.words ∧
      (wordStatus w = 1 → t.port.acc.get (wordChannel w) =
        { a with words := satInc 255 a.words, maint := satInc 255 a.maint }) ∧
      (wordStatus w = 2 → t.port.acc.get (wordChannel w) =
        { a with words := satInc 255 a.words, fault := satInc 255 a.fault }) ∧
      (wordStatus w = 0 ∨ wordStatus w = 3 → a.n < 120 → t.port.acc.get (wordChannel w) =
        { a with words := satInc 255 a.words, n := a.n + 1, sum := a.sum + wordCode w,
                 overRange := a.overRange || wordStatus w == 3 }) ∧
      (wordStatus w = 0 ∨ wordStatus w = 3 → 120 ≤ a.n → t.port.acc.get (wordChannel w) =
        { a with words := satInc 255 a.words, sat := true,
                 overRange := a.overRange || wordStatus w == 3 }))

/-- A word of a channel whose path is under check raises the excluded tally and the word count alone,
whatever its status; the check accumulators change in MEASURE only. There the measured channel's
accumulator takes the word by its converter status: MAINT and FAULT their tallies, OK and OVER count and sum
up to 1,000 words, OVER its flag. -/
def Obligations.WordUnderCheckIsExcluded : Prop :=
  ∀ (s : State) (w : BitVec 24), s.loader.station = .recording →
    (s.cfg.chans.get (wordChannel w)).enable = true → s.underCheck (wordChannel w) = true →
    ∃ t a k, exec (.sampleWord w) s = .next t ∧ a = s.port.acc.get (wordChannel w) ∧
      t = { s with port := t.port, chk := t.chk } ∧
      t.port.acc.get (wordChannel w) =
        { a with words := satInc 255 a.words, excluded := satInc 255 a.excluded } ∧
      (∀ c, c ≠ wordChannel w → t.port.acc.get c = s.port.acc.get c) ∧
      t.chk.current = s.chk.current ∧ t.chk.queue = s.chk.queue ∧ t.chk.drift = s.chk.drift ∧
      (s.measuring (wordChannel w) = false → t.chk = s.chk) ∧
      k = s.chk.acc.get (wordChannel w) ∧
      (∀ c, c ≠ wordChannel w → t.chk.acc.get c = s.chk.acc.get c) ∧
      (s.measuring (wordChannel w) = true →
        (wordStatus w = 1 → t.chk.acc.get (wordChannel w) = { k with maint := satInc 1000 k.maint }) ∧
        (wordStatus w = 2 → t.chk.acc.get (wordChannel w) = { k with fault := satInc 1000 k.fault }) ∧
        (wordStatus w = 0 ∨ wordStatus w = 3 → k.n < 1000 → t.chk.acc.get (wordChannel w) =
          { k with n := k.n + 1, sum := k.sum + wordCode w
                   overRange := k.overRange || wordStatus w == 3 }) ∧
        (wordStatus w = 0 ∨ wordStatus w = 3 → 1000 ≤ k.n → t.chk.acc.get (wordChannel w) =
          { k with overRange := k.overRange || wordStatus w == 3 }))

/-- A full minute whose received-word count is below E carries LOWRATE, and no other minute does;
LOWRATE has no bearing on the status. The flag joins the flags of the channel's interval accumulator
and through them bit 4 of the interval record's flags. -/
def Obligations.LowRateMarksSlowFullMinutes : Prop :=
  ∀ (cfg : ChannelCfg) (cal : CalSet) (locked full : Bool) (a : MinuteAcc),
    ((minuteResult cfg cal locked full a).flags.lowRate = true ↔
      full = true ∧ a.words < cfg.expected) ∧
    (∀ words, (minuteResult cfg cal locked full { a with words := words }).status =
      (minuteResult cfg cal locked full a).status) ∧
    (locked = false → cfg.sMin ≤ a.n → (minuteResult cfg cal locked full a).status = .valid) ∧
    (∀ (r : MinuteResult) (kind : Kind) (st : PlantState) (acc : ChanAcc) (sw : Bool),
      r.flags.lowRate = true → (acc.take kind st r).flags.lowRate = true ∧
        (acc.take kind st r).flags.recordByte sw / 16 % 2 = 1)

/-- A VALID minute has a value, and every value lies in the range of its kind; a drift-locked channel
has no VALID minute. -/
def Obligations.MinuteValuesLieInRange : Prop :=
  ∀ (cfg : ChannelCfg) (cal : CalSet) (locked full : Bool) (a : MinuteAcc) (r : MinuteResult),
    r = minuteResult cfg cal locked full a → 1 ≤ cfg.sMin →
    (r.status = .valid → r.value.isSome = true ∧ locked = false ∧ cfg.sMin ≤ a.n) ∧
    (∀ v, r.value = some v → lowLimit cfg.kind ≤ v ∧ v ≤ 9999999) ∧
    (r.value = none ↔ a.n = 0)

/-! ## Status inputs -/

/-- A raw edge of FEED or BURNER while the filter works: back to the filtered level, the timer stops;
away from it, the timer starts, or, with a filter time of 0, the level is taken at once. -/
def Obligations.RawEdgeDrivesTheFilter : Prop :=
  ∀ (s : State) (i : StatusInput) (level : Bool), i = .feed ∨ i = .burner →
    s.loader.image.isSome = true →
    ∃ t, exec (.statusInputEdge i level) s = .next t ∧
      t = { s with pins := t.pins, filter := t.filter } ∧
      t.pins = { s.pins with raw := s.pins.raw.set i level } ∧
      (level = s.filter.level.get i →
        t.filter = { s.filter with timer := s.filter.timer.set i none }) ∧
      (level ≠ s.filter.level.get i → s.cfg.station.filterSteps.get i ≠ 0 →
        t.filter = { s.filter with
          timer := s.filter.timer.set i (some (100 * s.cfg.station.filterSteps.get i)) }) ∧
      (level ≠ s.filter.level.get i → s.cfg.station.filterSteps.get i = 0 →
        t.filter = ⟨s.filter.level.set i level, s.filter.timer.set i none⟩)

/-- The expiry of a running filter timer gives the filtered level the raw level and stops the timer. A
ready input becoming active ends a purge of its path whose served mark is set; FEED and BURNER leave the
checks and the minutes. -/
def Obligations.FilterExpiryTakesTheRawLevel : Prop :=
  ∀ (s : State) (i : StatusInput) (n : Nat), s.filter.timer.get i = some n →
    ∃ t, exec (.filterTimerExpiry i) s = .next t ∧
      t.filter.level.get i = s.pins.raw.get i ∧ t.filter.timer.get i = none ∧
      (∀ j, j ≠ i → t.filter.level.get j = s.filter.level.get j ∧
        t.filter.timer.get j = s.filter.timer.get j) ∧
      t = { s with filter := t.filter, chk := t.chk, port := t.port } ∧
      (i = .feed ∨ i = .burner → t.chk = s.chk ∧ t.port = s.port) ∧
      (∀ path pair left ceiling, (i = .rdy1 ∧ path = .one) ∨ (i = .rdy2 ∧ path = .two) →
        s.pins.raw.get i = true → s.filter.level.get i = false → pair.path = path →
        s.chk.current = some ⟨pair, .purge left ceiling true⟩ → PurgeEnded s t)

/-! ## The Mark Unit -/

/-- Own expiry closes the interval: the clock returns to 0, the hold-off starts, the calendar advances
by one interval; MARK is driven for 10 ms except at a SILENT close. In ALIGNING it makes the station
RECORDING: LOCKED, no strays, slot 0 open at 0, the interval list ending in the interval that
starts. While RECORDING it is a recorded close: EXPIRY, or SILENT while REALIGNING, of 1,800,000 ms. -/
def Obligations.OwnExpiryClosesTheInterval : Prop :=
  ∀ (s : State) (c : Nat) (stamp : IStamp), s.mark.clock = some c → s.mark.calendar = some stamp →
    ∃ t, exec .ownExpiry s = .next t ∧ t.mark.clock = some 0 ∧ t.mark.boundary = 1 ∧
      t.mark.holdOff = some 1000 ∧ t.mark.calendar = some stamp.advance ∧
      (s.mark.stuck = true ∨ s.loader.station = .aligning ∨ s.mark.sync ≠ .realigning →
        t.mark.pulse = some 10) ∧
      (s.mark.stuck = false → s.loader.station ≠ .aligning → s.mark.sync = .realigning →
        t.mark.pulse = s.mark.pulse ∧ t.mark.sync = .realigning) ∧
      (s.loader.station = .aligning → t.loader = { s.loader with station := .recording } ∧
        t.mark.sync = .locked ∧ t.mark.strays = 0 ∧ t.port.openMin = some ⟨0, 0⟩ ∧
        (∃ sw, t.eng.intervals = s.eng.intervals ++ [⟨stamp.advance, sw, none⟩]) ∧
        t.exch.minutes = s.exch.minutes) ∧
      (s.loader.station = .recording → RecordedClose s t stamp
        ⟨if s.mark.stuck = false ∧ s.mark.sync = .realigning then .silent else .expiry,
          0, 1800000, false, false, s.mark.stuck⟩) ∧
      t.mark.lastOffset = s.mark.lastOffset ∧ t.flash = s.flash ∧ t.pins = s.pins ∧
      t.filter = s.filter

/-- The calendar's advance: the index, then the day, then the year, and 2000 after 2099; an advanced
stamp is a possible stamp again. -/
def Obligations.CalendarAdvancesByOneInterval : Prop :=
  ∀ s : IStamp, s.valid = true →
    s.advance.valid = true ∧ s.advance ≠ s ∧
    (s.index < 47 → s.advance = ⟨s.year, s.day, s.index + 1⟩) ∧
    (s.index = 47 → s.day < lastDayOf s.year → s.advance = ⟨s.year, s.day + 1, 0⟩) ∧
    (s.index = 47 → s.day = lastDayOf s.year → s.year < 2099 → s.advance = ⟨s.year + 1, 1, 0⟩) ∧
    (s = ⟨2099, 365, 47⟩ → s.advance = ⟨2000, 1, 0⟩)

/-- An edge taken while the clock is stopped, the line STUCK or the hold-off running ends the low check
and does nothing else. An early edge while LOCKED in RESUMING or RECORDING is a stray: the count rises,
at K the station is REALIGNING, and no close is made. -/
def Obligations.IgnoredEdgesAndStraysMakeNoClose : Prop :=
  ∀ (s : State) (n : Nat), s.mark.lowCheck = some n →
    (s.mark.clock = none ∨ s.mark.stuck = true ∨ s.mark.holdOff.isSome = true →
      exec .lowCheckExpiry s = .next { s with mark := { s.mark with lowCheck := none } }) ∧
    (∀ c, s.mark.clock = some c → c < 1740000 → s.mark.stuck = false → s.mark.holdOff = none →
      s.mark.sync = .locked → s.loader.station = .resuming ∨ s.loader.station = .recording →
      exec .lowCheckExpiry s = .next
        { s with mark :=
          { s.mark with
            lowCheck := none, strays := s.mark.strays + 1
            sync := if s.mark.strays + 1 = s.cfg.station.strayK then .realigning else .locked } })

/-- An accepted edge closes the interval: at 1,740,000 ms or later while LOCKED, at any value while
REALIGNING. The station is LOCKED without strays, the last offset is the signed offset, MARK is not
driven by the close; while RECORDING it is a recorded close, EDGE or REALIGN. In ALIGNING an edge closes as
EDGE at any value, and the station is RECORDING from it on. -/
def Obligations.AcceptedEdgeClosesTheInterval : Prop :=
  ∀ (s : State) (n c : Nat) (stamp : IStamp) (offset : Int), s.mark.lowCheck = some n →
    s.mark.clock = some c → s.mark.calendar = some stamp → s.mark.stuck = false →
    s.mark.holdOff = none → offset = (if 900000 ≤ c then 1800000 - (c : Int) else -(c : Int)) →
    (s.loader.station = .resuming ∨ s.loader.station = .recording →
      (s.mark.sync = .locked ∧ 1740000 ≤ c) ∨ s.mark.sync = .realigning →
      ∃ t, exec .lowCheckExpiry s = .next t ∧ t.mark.clock = some 0 ∧
        t.mark.calendar = some stamp.advance ∧ t.mark.holdOff = some 1000 ∧ t.mark.sync = .locked ∧
        t.mark.strays = 0 ∧ t.mark.pulse = s.mark.pulse ∧ t.mark.lastOffset = some offset ∧
        (s.loader.station = .recording → RecordedClose s t stamp
          ⟨if s.mark.sync = .realigning then .realign else .edge, offset, c,
            decide (s.mark.sync = .realigning), decide (s.mark.sync = .realigning), false⟩)) ∧
    (s.loader.station = .aligning →
      ∃ t sw, exec .lowCheckExpiry s = .next t ∧ t.mark.clock = some 0 ∧
        t.mark.calendar = some stamp.advance ∧ t.mark.holdOff = some 1000 ∧ t.mark.sync = .locked ∧
        t.mark.strays = 0 ∧ t.mark.pulse = s.mark.pulse ∧ t.mark.lastOffset = some offset ∧
        t.loader = { s.loader with station := .recording } ∧ t.port.openMin = some ⟨0, 0⟩ ∧
        t.eng.intervals = s.eng.intervals ++ [⟨stamp.advance, sw, none⟩] ∧
        t.exch.minutes = s.exch.minutes)

/-- A fall of a sensed high line while NORMAL starts the low check and the 100 ms of R39; while STUCK it
ends the recovery and starts neither. That it starts no low check while STUCK is the model's choice (log 34).
A rise ends both and, while STUCK, starts the recovery. The pulse's end releases MARK, and the hold-off ends
of its own accord. -/
def Obligations.LineChangesDriveTheLineTimers : Prop :=
  ∀ s : State, s.loader.station ≠ .loading →
    (s.pins.markLow = false → s.mark.stuck = false → exec .markFall s = .next
      { s with pins := { s.pins with markLow := true }
               mark := { s.mark with lowCheck := some 2, stuckTimer := some 100 } }) ∧
    (s.pins.markLow = false → s.mark.stuck = true → exec .markFall s = .next
      { s with pins := { s.pins with markLow := true }
               mark := { s.mark with recovery := none } }) ∧
    (s.pins.markLow = true → s.mark.pulse = none → exec .markRise s = .next
      { s with pins := { s.pins with markLow := false }
               mark := { s.mark with
                 lowCheck := none, stuckTimer := none
                 recovery := if s.mark.stuck then some 100 else none } }) ∧
    exec .markPulseEnd s = .next { s with mark := { s.mark with pulse := none } } ∧
    exec .holdOffExpiry s = .next { s with mark := { s.mark with holdOff := none } }

/-- 100 ms of low line make the status STUCK, 100 ms of high line make it NORMAL again; each submits
one event, which waits in a queue with room, before resumption or behind the operation in flight of a READY
archive; a BLOCKED archive or one in FAULT drops and counts it. -/
def Obligations.LineStatusChangesWithItsEvent : Prop :=
  ∀ (s : State) (n : Nat) (stuck : Bool) (i : Instr) (m : MarkUnit),
    s.arch.activity ≠ .idle ∨ (s.arch.condition = .notMounted ∧ s.arch.service = false ∧
      s.arch.reads = [] ∧ s.arch.opening = none) →
    (i = .markStuck ∧ stuck = true ∧ s.mark.stuckTimer = some n ∧
        m = { s.mark with stuck := true, stuckTimer := none, recovery := none }) ∨
      (i = .markNormal ∧ stuck = false ∧ s.mark.recovery = some n ∧
        m = { s.mark with stuck := false, recovery := none }) →
    ∃ t e, exec i s = .next t ∧ t = { s with mark := m, arch := t.arch } ∧
      e = markEvent stuck s.mark.calendar s.clockValue ∧
      (s.arch.condition = .notMounted ∨ s.arch.condition = .ready → s.arch.queue.length < 16 →
        t.arch = { s.arch with queue := s.arch.queue ++ [.event e] }) ∧
      (s.arch.condition = .blocked ∨ s.arch.condition = .fault →
        t.arch = { s.arch with counts := { s.arch.counts with
          dropped := min 65535 (s.arch.counts.dropped + 1)
          yearDropped := min 65535 (s.arch.counts.yearDropped + 1) } })

/-- A minute boundary sets the clock and, while RECORDING, closes the open slot and opens the next: every
accumulator cleared in all its items, CHECKED set where the channel's path is under check. The minute that
closes enters the pending list with its results, full, its deadline at W; complete, it resolves at once; in
a list of two it first resolves the head. In other states the boundary closes no minute. -/
def Obligations.BoundaryClosesTheMinute : Prop :=
  ∀ (s : State) (c : Nat), s.mark.clock = some c → s.mark.boundary ≤ 29 →
    (s.loader.station ≠ .recording → exec .minuteBoundary s = .next
      { s with mark := { s.mark with
          clock := some (60000 * s.mark.boundary), boundary := s.mark.boundary + 1 } }) ∧
    (∀ o stamp pm, s.loader.station = .recording → s.port.openMin = some o →
      s.mark.calendar = some stamp →
      pm = newPending ⟨stamp, o.slot⟩ s.localPlant (minuteResults true s) false s →
      ∃ t, exec .minuteBoundary s = .next t ∧
        t.port = { s.port with openMin := some ⟨o.slot + 1, 60000 * s.mark.boundary⟩,
                               acc := t.port.acc } ∧
        (∀ ch, t.port.acc.get ch =
          ⟨0, 0, 0, 0, 0, 0, false, false, (s.cfg.chans.get ch).enable && s.underCheck ch⟩) ∧
        t.mark = { s.mark with
          clock := some (60000 * s.mark.boundary), boundary := s.mark.boundary + 1 } ∧
        t.flash = s.flash ∧ t.chk = s.chk ∧ t.filter = s.filter ∧ t.loader = s.loader ∧
        (s.exch.minutes = [] → pm.complete s.cfg = false →
          t.exch = { s.exch with minutes := [pm] } ∧ t.eng = s.eng ∧ t.arch = s.arch) ∧
        (s.exch.minutes = [] → pm.complete s.cfg = true →
          t.exch.minutes = [] ∧ t.exch.history = (pm.stamp :: s.exch.history).take 6 ∧
          t.eng.acc.minutes = s.eng.acc.minutes + 1) ∧
        (∀ q, s.exch.minutes = [q] → q.complete s.cfg = false → q.deadlineMark = false →
          t.exch = { s.exch with minutes := [q, pm] } ∧ t.eng = s.eng ∧ t.arch = s.arch) ∧
        (∀ q r, s.exch.minutes = [q, r] → r.complete s.cfg = false → r.deadlineMark = false →
          t.exch.minutes = [r, pm] ∧ t.exch.history = (q.stamp :: s.exch.history).take 6) ∧
        ((∀ ch, (s.cfg.chans.get ch).publish = false) →
          s.exch.minutes = [] → pm.complete s.cfg = false → t.bus = s.bus))

/-! ## TIME and SUMMARY frames -/

/-- A TIME frame with a possible stamp adopts the calendar of an UNSYNCED station: the frame's stamp
and milliseconds. A peer's SUMMARY frame adopts the interval after its stamp, with the clock at 0. The
station is then LOCKED, without strays, the hold-off running; one that resumption halts stops its clock
and keeps the calendar. It is RESUMING, or, resumption ending in the same event, ALIGNING or HALTED. -/
def Obligations.FramesAdoptTheCalendar : Prop :=
  ∀ (s : State) (j : Joined) (f : RxFrame) (stamp now : IStamp) (ms : Nat) (i : Instr),
    s.bus.joined = some j → s.loader.station = .unsynced → f.source ≠ 0 →
    f.source.toNat ≠ j.number → f.dest = 0 → stamp = readIStamp f.payload 0 →
    stamp.valid = true →
    (i = .timeFrame f ∧ f.payload.length = 8 ∧ now = stamp ∧ ms = field f.payload 5 3 ∧
        ms ≤ 1799999) ∨
      (i = .summaryFrame f ∧ f.payload.length = 71 ∧ now = stamp.advance ∧ ms = 0) →
    ∃ t, exec i s = .next t ∧ t.mark.calendar = some now ∧
      (t.loader.station = .resuming ∨ t.loader.station = .aligning ∨ t.loader.station = .halted) ∧
      t.mark.strays = 0 ∧ t.mark.lastOffset = none ∧ t.arch.service = true ∧
      (t.loader.station ≠ .halted → t.mark.clock = some ms ∧ t.mark.sync = .locked ∧
        t.mark.holdOff = some 1000) ∧
      (t.loader.station = .halted → t.mark.clock = none ∧ t.mark.sync = .stopped) ∧
      t.port = s.port ∧ t.exch = s.exch ∧ t.chk = s.chk ∧ t.bus = s.bus ∧ t.flash = s.flash

/-! ## The Reference Exchange -/

/-- While the station is not RECORDING a MINUTE frame of the right length changes nothing; while it is,
a frame that fails the tests of R56 is counted as a bad frame and changes nothing else. A VALID value
for the one pair subscribed to, arriving with no minute pending or resolved, fills an empty entry. -/
def Obligations.MinuteFrameIsTestedWhileRecording : Prop :=
  ∀ (s : State) (j : Joined) (f : RxFrame), s.bus.joined = some j → f.source ≠ 0 →
    f.source.toNat ≠ j.number → f.dest = 0 → f.payload.length = 8 + 5 * field f.payload 7 1 →
    (s.loader.station ≠ .recording → exec (.minuteFrame f) s = .next s) ∧
    (s.loader.station = .recording → readMinute f.payload = none →
      exec (.minuteFrame f) s = .next { s with bus :=
        { s.bus with counts := { s.bus.counts with bad := count16 s.bus.counts.bad } } }) ∧
    (∀ stamp state ch v, s.loader.station = .recording →
      readMinute f.payload = some ⟨stamp, state, [⟨ch, .valid, some v⟩]⟩ →
      s.cfg.subs = [⟨f.source.toNat, ch⟩] → s.cfg.plantSource = none →
      s.exch.entries = [ValueEntry.reset] → s.exch.minutes = [] → s.exch.history = [] →
      exec (.minuteFrame f) s = .next { s with exch := { s.exch with
        entries := [{ ValueEntry.reset with
          latest := some ⟨stamp, some v, .valid⟩, lastValid := some ⟨stamp, v⟩ }] } })

/-- A reference is HELD for at most H resolutions after its last FRESH one: resolved n times without a
fresh value it is HELD while n is at most H and LOST from then on. -/
def Obligations.HeldForAtMostH : Prop :=
  ∀ (e : ValueEntry) (l : LastValid) (stamp : MStamp) (hold n : Nat), e.lastValid = some l →
    e.age = 0 → hold ≤ 5 → 1 ≤ n → n ≤ 100 →
    ((ValueEntry.resolve stamp none hold)^[n] e).outcome = (if n ≤ hold then .held else .lost) ∧
    ((ValueEntry.resolve stamp none hold)^[n] e).lastValid = some l

/-- The deadline of the only pending minute of a running interval resolves it: it leaves the list and
heads the history, whatever its captures. With its last mark set the interval ends behind it. -/
def Obligations.DeadlineResolvesTheHead : Prop :=
  ∀ (s : State) (pm : PendingMinute) (n : Nat), s.exch.minutes = [pm] → pm.deadline = some n →
    ∃ t, exec (.minuteDeadlineExpiry 0) s = .next t ∧ t.exch.minutes = [] ∧
      t.exch.history = (pm.stamp :: s.exch.history).take 6 ∧
      (pm.last = false → t.eng.acc.minutes = s.eng.acc.minutes + 1 ∧
        t.eng.intervals = s.eng.intervals ∧ t.bus = s.bus) ∧
      (∀ stamp sw notice rest, pm.last = true →
        s.eng.intervals = ⟨stamp, sw, some notice⟩ :: rest →
        t.eng.intervals = rest ∧ t.eng.acc = IntervalAcc.cleared) ∧
      t.port = s.port ∧ t.mark = s.mark ∧ t.chk = s.chk ∧ t.flash = s.flash

/-! ## Normalization, intervals, days -/

/-- F_p over the clamped pressures: the rounded division, exact at the three pressures of the rule,
within its range. F_T, F_h, O2d and F_O2 in the same way. The chain makes the steps T, p, DRY, O2 whose
flags are set, each rounded on its own and limited to 9,999,999, where it sets SAT; HCLAMP tells a needed h
out of its range, O2CAP a capped O2d. -/
def Obligations.PressureFactor : Prop :=
  (∀ x : Option Int, factorP (clampP x) =
    (2 * 1013250000000 + clampP x) / (2 * clampP x) ∧
    844375 ≤ factorP (clampP x) ∧ factorP (clampP x) ≤ 1266563) ∧
  factorP 1013250 = 1000000 ∧ factorP 1200000 = 844375 ∧ factorP 800000 = 1266563 ∧
  (∀ (cfg : ChannelCfg) (cap m : Nat) (r : RefValues), cfg.basisT = false → cfg.basisDry = false →
    cfg.basisO2 = false → cfg.basisP = true → m * 1266563 < 9999998000000 →
    (normalize cfg cap m r).value = (2 * (m * factorP (clampP r.p)) + 1000000) / 2000000) ∧
  (∀ x : Option Int,
    (factorT (clampT x) : Int) = (2 * (1000000 * (273150 + clampT x)) + 273150) / 546300 ∧
    853560 ≤ factorT (clampT x) ∧ factorT (clampT x) ≤ 3196595) ∧
  factorT 0 = 1000000 ∧ factorT (-40000) = 853560 ∧ factorT 600000 = 3196595 ∧
  (∀ x : Option Int, factorH (clampH x) =
    (2 * 100000000000 + (100000 - clampH x)) / (2 * (100000 - clampH x)) ∧
    1000000 ≤ factorH (clampH x) ∧ factorH (clampH x) ≤ 1666667) ∧
  factorH 0 = 1000000 ∧ factorH 40000 = 1666667 ∧
  (∀ (x h : Option Int) (wet : Bool), dryO2 wet (clampO2 x) (clampH h) =
    (if wet then (2 * (clampO2 x * 100000) + (100000 - clampH h)) / (2 * (100000 - clampH h))
      else clampO2 x) ∧ dryO2 wet (clampO2 x) (clampH h) ≤ 35000) ∧
  (∀ o2Ref o2d cap : Nat, o2Ref ≤ 20000 → cap ≤ 20000 →
    factorO2 o2Ref (min o2d cap) =
      (2 * (1000000 * (21000 - o2Ref)) + (21000 - min o2d cap)) / (2 * (21000 - min o2d cap)) ∧
    47619 ≤ factorO2 o2Ref (min o2d cap) ∧ factorO2 o2Ref (min o2d cap) ≤ 21000000 ∧
    factorO2 o2Ref o2Ref = 1000000) ∧
  (∀ (cfg : ChannelCfg) (cap m o2d c1 c2 c3 c4 : Nat) (r : RefValues) (x : Normalized),
    m ≤ 9999999 → x = normalize cfg cap m r →
    o2d = dryO2 cfg.o2Wet (clampO2 r.o2) (clampH r.h) →
    c1 = (if cfg.basisT then (2 * (m * factorT (clampT r.t)) + 1000000) / 2000000 else m) →
    c2 = (if cfg.basisP then (2 * (min 9999999 c1 * factorP (clampP r.p)) + 1000000) / 2000000
      else min 9999999 c1) →
    c3 = (if cfg.basisDry then (2 * (min 9999999 c2 * factorH (clampH r.h)) + 1000000) / 2000000
      else min 9999999 c2) →
    c4 = (if cfg.basisO2 then
        (2 * (min 9999999 c3 * factorO2 cfg.o2Ref (min o2d cap)) + 1000000) / 2000000
      else min 9999999 c3) →
    x.value = min 9999999 c4 ∧
    (x.sat = true ↔ (cfg.basisT = true ∧ 9999999 ≤ c1) ∨ (cfg.basisP = true ∧ 9999999 ≤ c2) ∨
      (cfg.basisDry = true ∧ 9999999 ≤ c3) ∨ (cfg.basisO2 = true ∧ 9999999 ≤ c4)) ∧
    (x.hClamp = true ↔ (cfg.basisDry = true ∨ (cfg.basisO2 = true ∧ cfg.o2Wet = true)) ∧
      ∃ h, r.h = some h ∧ (h < 0 ∨ 40000 < h)) ∧
    (x.o2Cap = true ↔ cfg.basisO2 = true ∧ cap < o2d))

/-- The plant class over the minutes an interval has, and the class of a standing plant. -/
def Obligations.PlantClassOfAnInterval : Prop :=
  ∀ pOp m o t st : Nat, 1 ≤ pOp → pOp ≤ 100 → 1 ≤ m → o + t + st = m →
    (plantClass pOp m o t = .operating ↔ m * pOp ≤ 100 * o) ∧
    (plantClass pOp m o t = .standstill ↔ st = m)

/-- The accumulators agree with each other after every minute they take: the three state counts sum to
M, and no channel's valid minutes exceed its considered ones, nor these M. -/
def Obligations.AccumulatorsAgree : Prop :=
  ∀ (img : Image) (st : PlantState) (results : Eight (Option MinuteResult)) (a b : IntervalAcc),
    b = a.take img st results →
    a.operating + a.transition + a.standstill = a.minutes →
    (∀ c, (a.chans.get c).v ≤ (a.chans.get c).considered ∧
      (a.chans.get c).considered ≤ a.minutes) →
    b.minutes = a.minutes + 1 ∧ b.operating + b.transition + b.standstill = b.minutes ∧
    ∀ c, (b.chans.get c).v ≤ (b.chans.get c).considered ∧ (b.chans.get c).considered ≤ b.minutes

/-- The validated value never exceeds the interval average, and with CIP at 0 it is the average; its
class is ABOVE exactly above L_A. A channel is valid where v is at least C × Q / 100. A valid POLLUTANT
channel of an OPERATING interval takes V and its class from its average, an invalid one the reason of the
highest count, the first in their order among equals; in other intervals it is NOT_ASSESSED. Other kinds are
VALID or INVALID. -/
def Obligations.ValidatedValueIsAtMostTheAverage : Prop :=
  (∀ (cfg : ChannelCfg) (average : Int), 0 ≤ average →
    (validatedValue cfg average : Int) ≤ average ∧
    (cfg.cip = 0 → (validatedValue cfg average : Int) = average) ∧
    ∀ v, cfg.limB ≤ cfg.limA → (limitClass cfg v = .above ↔ cfg.limA < v) ∧
      (limitClass cfg v = .below ↔ v ≤ cfg.limB)) ∧
  (∀ (cfg : ChannelCfg) (quota : Nat) (cls : PlantClass) (switched : Bool) (a : ChanAcc)
      (x : ChanResult), x = chanResult cfg quota cls switched a →
    (∀ average : Int, cfg.kind = .pollutant → cls = .operating →
      a.considered * quota ≤ 100 * a.v → 1 ≤ a.v → 0 ≤ a.vSum →
      average = (2 * a.vSum + a.v) / (2 * a.v) →
      x.average = some average ∧ x.validated = some (validatedValue cfg average) ∧
        x.cls = limitClass cfg (validatedValue cfg average)) ∧
    (cfg.kind = .pollutant → cls = .operating → 100 * a.v < a.considered * quota →
      x.cls = .invalid a.tally.dominant ∧ x.validated = none ∧ (a.v = 0 → x.average = none)) ∧
    (cfg.kind = .pollutant → cls ≠ .operating →
      x.cls = .notAssessed ∧ x.validated = none ∧
        (1 ≤ a.anyValid → 0 ≤ a.anySum →
          x.average = some ((2 * a.anySum + a.anyValid) / (2 * a.anyValid)))) ∧
    (cfg.kind ≠ .pollutant → x.validated = none ∧
      (a.considered * quota ≤ 100 * a.v → x.cls = .valid) ∧
      (100 * a.v < a.considered * quota → x.cls = .invalid a.tally.dominant)) ∧
    (cfg.kind = .temperature → 1 ≤ a.v → -40000 * a.v ≤ a.vSum →
      x.average = some ((2 * (a.vSum + 40000 * a.v) + a.v) / (2 * a.v) - 40000))) ∧
  (∀ (t : Tally) (before after : List Reason),
    [Reason.drift, .check, .fault, .maint, .few, .refLost] = before ++ t.dominant :: after →
    (∀ r ∈ before, t.count r < t.count t.dominant) ∧ ∀ r ∈ after, t.count r ≤ t.count t.dominant)

/-- An interval taken into the day and the year keeps the year's counts in step: valid and invalid
intervals sum to the operating ones, and BAND and ABOVE do not exceed the valid ones. The end of an interval
submits its record and its SUMMARY frame, takes it into the day and the year, sets EXCEEDANCE exactly when a
channel is ABOVE, and removes the head with cleared accumulators. The last interval of the held day closes
the day: the next day is held, DAY_EXCEEDANCE stands exactly when a VALID day's D exceeds L_D, each operated
day is VALID or INVALID; the last day of a year closes the year, with nine summary records and the year-end
job. -/
def Obligations.YearCountsStayInStep : Prop :=
  (∀ (img : Image) (iv : StoredInterval) (e : Engine) (c : Chan),
    (∀ cls v, iv.chans.get c = some (cls, v) → cls ≠ .notAssessed ∧ cls ≠ .valid) →
    (e.year.chans.get c).valid + (e.year.chans.get c).invalid = (e.year.chans.get c).operating →
    (e.year.chans.get c).band + (e.year.chans.get c).above ≤ (e.year.chans.get c).valid →
    ∃ y, y = (e.takeInterval img iv).year.chans.get c ∧ y.valid + y.invalid = y.operating ∧
      y.band + y.above ≤ y.valid ∧ (e.takeInterval img iv).day.recorded = e.day.recorded + 1) ∧
  ∀ (s t : State) (stamp : IStamp) (sw : Eight Bool) (n : Notice) (rest : List IntervalEntry)
    (cls : PlantClass) (chs : Eight (Option ChanResult)) (e : Engine) (u : Nat),
    s.eng.intervals = ⟨stamp, sw, some n⟩ :: rest → t = intervalEnd s →
    cls = plantClass s.cfg.station.pOp s.eng.acc.minutes s.eng.acc.operating
      s.eng.acc.transition →
    chs = chanResults s.cfg cls sw s.eng.acc →
    e = s.eng.takeInterval s.cfg (storedOf cls chs) → u = 48 - e.day.recorded →
    t.eng.intervals = rest ∧ t.eng.acc = IntervalAcc.cleared ∧
    t.bus = s.bus.submit
      (buildFrame 2 0 (summaryPayload stamp cls (stationFlags n s.eng.acc.unknown) chs)) ∧
    (t.eng.exceedance = true ↔ ∃ c x, chs.get c = some x ∧ x.cls = .above) ∧
    (stamp.index ≠ 47 ∨ s.eng.held ≠ some stamp.toDay →
      t.eng = { e with
        intervals := rest, acc := IntervalAcc.cleared, exceedance := t.eng.exceedance } ∧
      (s.arch.condition = .ready → s.arch.activity ≠ .idle → s.arch.queue.length < 16 →
        t.arch = { s.arch with
          queue := s.arch.queue ++
            [.interval stamp (intervalRecord stamp cls n s.eng.acc chs)] })) ∧
    (stamp.index = 47 → s.eng.held = some stamp.toDay →
      t.eng.held = some stamp.toDay.next ∧ t.eng.day = DayAcc.cleared ∧
      (t.eng.dayExceedance = true ↔ ∃ c d, d = e.day.chans.get c ∧
        (s.cfg.chans.get c).isPollutant = true ∧ d.operating ≠ 0 ∧ 1 ≤ d.valid ∧
        d.invalid + (if s.cfg.station.countUnrecorded then u else 0) ≤ s.cfg.station.nInv ∧
        (s.cfg.chans.get c).limD < (2 * d.sumV + d.valid) / (2 * d.valid)) ∧
      (stamp.day ≠ lastDayOf stamp.year →
        t.eng.year.unrecorded = e.year.unrecorded + u ∧
        (∀ c, (s.cfg.chans.get c).isPollutant = true →
          (t.eng.year.chans.get c).validDays + (t.eng.year.chans.get c).invalidDays =
            (e.year.chans.get c).validDays + (e.year.chans.get c).invalidDays +
              (if (e.day.chans.get c).operating = 0 then 0 else 1)) ∧
        (s.arch.condition = .ready → s.arch.activity ≠ .idle → s.arch.queue.length ≤ 14 →
          ∃ data, t.arch = { s.arch with
            queue := s.arch.queue ++
              [.interval stamp (intervalRecord stamp cls n s.eng.acc chs),
                .day stamp.toDay data] })) ∧
      (stamp.day = lastDayOf stamp.year → t.eng.year = YearCounters.cleared ∧
        (s.arch.condition = .ready → s.arch.activity ≠ .idle → s.arch.queue.length ≤ 4 →
          t.arch.queue.length = s.arch.queue.length + 12 ∧
          t.arch.queue.getLast? = some (.yearEnd stamp.year (nextYear stamp.year)) ∧
          t.arch.counts.yearDropped = 0 ∧ t.arch.counts.yearLost = 0)))

/-! ## Checks -/

/-- An accepted CHECK with no check in progress starts at once: its path in SETTLE for the settle time,
VALVE at its code, the open minute of the path's channels CHECKED, ACCEPTED answered. -/
def Obligations.AcceptedCheckStarts : Prop :=
  ∀ (s : State) (j : Joined) (f : RxFrame) (valve : Nat),
    s.bus.joined = some j → f.source ≠ 0 → f.source.toNat ≠ j.number → f.dest ≠ 0 →
    f.dest.toNat = j.number → f.payload = [0x01, byte valve] → valve < 8 →
    s.cfg.valveUsed .one valve = true → s.loader.station = .recording → s.chk.current = none →
    s.chk.queue = [] → s.port.openMin.isSome = true →
    ∃ t, exec (.checkRequest f) s = .next t ∧
      t = { s with chk := t.chk, port := t.port, bus := t.bus } ∧
      t.chk = { s.chk with
        current := some ⟨⟨.one, valve⟩, .settle (1000 * s.cfg.path1.settle)⟩ } ∧
      t.valve = valve ∧ t.underCheck = (fun c => decide ((s.cfg.chans.get c).path = 1)) ∧
      (∀ c, (s.cfg.chans.get c).onPath .one = true → (t.port.acc.get c).checked = true) ∧
      t.bus = s.bus.submit (buildFrame 16 f.source.toNat (replyPayload 10 .accepted 0 f.payload))

/-- A settle timer's expiry enters MEASURE for the measure time and clears the accumulators of the
measured channels, no others. -/
def Obligations.SettleExpiryEntersMeasure : Prop :=
  ∀ (s : State) (pair : CheckPair) (n : Nat), s.chk.current = some ⟨pair, .settle n⟩ →
    ∃ t, exec .settleExpiry s = .next t ∧ t = { s with chk := t.chk } ∧
      t.chk = { s.chk with current := t.chk.current, acc := t.chk.acc } ∧
      t.chk.current = some ⟨pair, .measure (1000 * (s.cfg.path pair.path).measure)⟩ ∧
      ∀ c, t.chk.acc.get c =
        if ((s.cfg.chans.get c).onPath pair.path &&
            ((s.cfg.chans.get c).valveEntry pair.valve).isSome) = true
        then CheckAcc.cleared else s.chk.acc.get c

/-- A measure timer's expiry enters PURGE: VALVE at 0, both timers started, the served mark clear. Of a
measured channel with fewer than 10 words both drift records stay; with a result the record of its valve
entry's kind takes the deviation of the calibrated mean from the reference, each sum limited to
0..9,999,999, and locks above H, above the hard limit, or where it was locked. The record of the other kind,
and every other channel's, stays. -/
def Obligations.MeasureExpiryEntersPurge : Prop :=
  ∀ (s : State) (pair : CheckPair) (n : Nat), s.chk.current = some ⟨pair, .measure n⟩ →
    ∃ t, exec .measureExpiry s = .next t ∧ t = { s with chk := t.chk, arch := t.arch } ∧
      t.chk.current = some ⟨pair, .purge (some (1000 * (s.cfg.path pair.path).purge))
        (1000 * (s.cfg.path pair.path).ceiling) false⟩ ∧
      t.valve = 0 ∧ t.chk.queue = s.chk.queue ∧ t.chk.acc = s.chk.acc ∧
      ∀ c, ((s.chk.drift.get c).locked = true → (t.chk.drift.get c).locked = true) ∧
        ((s.cfg.measuredChans pair).contains c = false →
          t.chk.drift.get c = s.chk.drift.get c) ∧
        ∀ entry, (s.cfg.chans.get c).onPath pair.path = true →
          (s.cfg.chans.get c).valveEntry pair.valve = some entry →
          ((s.chk.acc.get c).n < 10 → t.chk.drift.get c = s.chk.drift.get c) ∧
          (10 ≤ (s.chk.acc.get c).n →
            (∀ kind, kind ≠ entry.kind →
              (t.chk.drift.get c).get kind = (s.chk.drift.get c).get kind) ∧
            ∃ d old new,
              d = calibrate (s.calSet c) (s.chk.acc.get c).n (s.chk.acc.get c).sum -
                entry.reference ∧
              old = (s.chk.drift.get c).get entry.kind ∧
              new = (t.chk.drift.get c).get entry.kind ∧
              (new.spos : Int) = max 0 (min 9999999 (old.spos + d - (s.cfg.chans.get c).driftK)) ∧
              (new.sneg : Int) = max 0 (min 9999999 (old.sneg - d - (s.cfg.chans.get c).driftK)) ∧
              (new.lock = true ↔ old.lock = true ∨ (s.cfg.chans.get c).driftH < new.spos ∨
                (s.cfg.chans.get c).driftH < new.sneg ∨
                (s.cfg.chans.get c).driftHard < d.natAbs))

/-- The purge timer ends the purge with the ready input active and otherwise sets the served mark; the
ceiling ends it in any case, the purge timer running or stopped, with the served mark or without, and
submits its PURGE_CEILING event. The path is then IDLE, or the head of the check queue has started. -/
def Obligations.PurgeEnds : Prop :=
  ∀ (s : State) (pair : CheckPair) (left : Timer) (ceiling : Nat) (served : Bool),
    s.chk.current = some ⟨pair, .purge left ceiling served⟩ →
    (left.isSome = true → s.ready pair.path = true → ∃ t, exec .purgeTimerExpiry s = .next t ∧
      t = { s with chk := t.chk, port := t.port } ∧ PurgeEnded s t) ∧
    (left.isSome = true → s.ready pair.path = false → exec .purgeTimerExpiry s = .next
      { s with chk := { s.chk with current := some ⟨pair, .purge none ceiling true⟩ } }) ∧
    ∃ t, exec .purgeCeiling s = .next t ∧
      t = { s with chk := t.chk, port := t.port, arch := t.arch } ∧ PurgeEnded s t ∧
      t.arch = (submitEvent (purgeCeilingEvent s.checkStamp pair) s).arch

/-- DRIFT_RESET is answered by the first condition of R128's table that applies, and ACCEPTED clears
both drift records of the channel; any other answer leaves every block but the bus. -/
def Obligations.DriftResetFollowsItsTable : Prop :=
  ∀ (s : State) (j : Joined) (f : RxFrame) (n : Byte),
    s.bus.joined = some j → f.source ≠ 0 → f.source.toNat ≠ j.number → f.dest ≠ 0 →
    f.dest.toNat = j.number → f.payload = [n] → s.loader.station ≠ .halted →
    ∃ t outcome, exec (.driftReset f) s = .next t ∧
      t.bus = s.bus.submit (buildFrame 16 f.source.toNat (replyPayload 11 outcome 0 f.payload)) ∧
      ((∀ c, chanNumber c = n.toNat → (s.cfg.chans.get c).enable = false) →
        outcome = .badArgument ∧ t = { s with bus := t.bus }) ∧
      (∀ c, chanNumber c = n.toNat → (s.cfg.chans.get c).enable = true →
        (s.loader.station ≠ .recording → outcome = .notRecording ∧ t = { s with bus := t.bus }) ∧
        (s.loader.station = .recording → s.underCheck c = true →
          outcome = .busy ∧ t = { s with bus := t.bus }) ∧
        (s.loader.station = .recording → s.underCheck c = false → outcome = .accepted ∧
          t = { s with bus := t.bus, chk := t.chk, arch := t.arch } ∧
          t.chk = { s.chk with drift := t.chk.drift } ∧
          t.chk.drift.get c = DriftPair.reset ∧
          ∀ d, d ≠ c → t.chk.drift.get d = s.chk.drift.get d))

/-! ## The archive -/

/-- A record's program that completes leaves its bytes at its slot, every other byte of the flash as it
was, and the job out of the queue; nothing waits, so nothing more is in flight. That the bytes stand as given
whatever the slot held is PRESUMED (log 42); that the job leaves the queue only now is read from R136 and
R139 (log 18). -/
def Obligations.ProgramStoresTheRecord : Prop :=
  ∀ (s : State) (p : Program) (j : Job), s.arch.activity = .programming p → p.purpose = .record →
    p.addr + p.data.length ≤ flashSize → s.arch.queue = [j] → s.arch.reads = [] →
    s.arch.opening = none → s.arch.erases = [] → s.flashOk →
    ∃ t, exec (.flashProgramDone true) s = .next t ∧ t = { s with arch := t.arch, flash := t.flash } ∧
      t.arch = { s.arch with activity := .idle, queue := [], jobFound := false } ∧
      flashReadBytes t.flash p.addr p.data.length = p.data ∧
      ∀ a, a < p.addr ∨ p.addr + p.data.length ≤ a → flashRead t.flash a = flashRead s.flash a

/-- A program that fails or runs out of time, and an erase that fails or reaches its limit, put the
archive into FAULT: the queue and the opening are discarded, nothing is in flight but a read. No byte of the
flash changes outside the program or the erase that is cut off. -/
def Obligations.FailureIsAnArchiveFault : Prop :=
  ∀ (i : Instr) (s : State) (lo len : Nat),
    ((i = .flashProgramDone false ∨ i = .programTimeout) ∧
        ∃ p, s.arch.activity = .programming p ∧ lo = p.addr ∧ len = p.data.length ∧
          lo + len ≤ flashSize ∧ ∀ a, p.purpose ≠ .mountClose a) ∨
      ((i = .flashEraseDone false ∨ i = .eraseTimeout) ∧
        ∃ er, s.arch.activity = .erasing er ∧ lo = (eraseRange er).1 ∧ len = (eraseRange er).2 ∧
          lo + len ≤ flashSize) →
    ∃ t, exec i s = .next t ∧ t.arch.condition = .fault ∧ t.archiveCause = true ∧
      t.arch.queue = [] ∧ t.arch.opening = none ∧ t.arch.erases = s.arch.erases ∧
      (t.arch.activity = .idle ∨ ∃ r, t.arch.activity = .reading r) ∧
      t.arch.table = s.arch.table ∧
      (∀ a, a < lo ∨ lo + len ≤ a → flashRead t.flash a = flashRead s.flash a) ∧
      t = { s with arch := t.arch, flash := t.flash, draws := s.draws + 1 }

/-- A completed erase step erases its block or sector and no other byte; the header's frees the area
and takes it off the list. A read waiting at the minimum run suspends the erase and is served; the
holdoff's end resumes the erase with its run timer at 0 and its limit clock kept. -/
def Obligations.ErasesRunYieldAndEnd : Prop :=
  ∀ (s : State) (er : EraseRun) (a : Nat),
    (∀ r rs, s.arch.activity = .erasing er → s.arch.reads = r :: rs →
      exec .eraseMinRun s = .next { s with arch :=
        { s.arch with activity := .suspendedRead er r, reads := rs } }) ∧
    (∀ n, s.arch.activity = .suspendedHold er n →
      exec .eraseHoldoffExpiry s = .next { s with arch :=
        { s.arch with activity := .erasing { er with run := 0 } } }) ∧
    (s.arch.activity = .erasing er → (eraseRange er).1 + (eraseRange er).2 ≤ flashSize →
    ∃ t, exec (.flashEraseDone true) s = .next t ∧ t = { s with arch := t.arch, flash := t.flash } ∧
      (a < (eraseRange er).1 ∨ (eraseRange er).1 + (eraseRange er).2 ≤ a →
        flashRead t.flash a = flashRead s.flash a) ∧
      ((eraseRange er).1 ≤ a → a < (eraseRange er).1 + (eraseRange er).2 →
        flashRead t.flash a = 0xFF) ∧
      (48 ≤ er.step → t.arch.erases = s.arch.erases.tail ∧
        (s.arch.table.isSome = true → t.arch.areaState er.area = some .free)))

/-- A record job's slot read ERASED is programmed next; found COMMITTED or TORN, an interval, day or
summary job is discarded and counted, and its WRITE_CONFLICT event joins the queue, while an event job passes
the slot over. That the job stands in the queue while its slot is read (log 18) and that its read and its
program are two operations (log 19) is read from the spec by inference; the stamp of a day's and a summary's
event is log 30's. -/
def Obligations.JobProgramsOnlyAnErasedSlot : Prop :=
  ∀ (s : State) (req : ReadReq) (i : Area) (e : AreaEntry) (j : Job) (data bytes : List Byte),
    s.arch.activity = .reading req → req.who = .job → req.addr + req.len ≤ flashSize →
    s.arch.queue = [j] → s.arch.openArea = some (i, e) → s.arch.reads = [] →
    s.arch.opening = none → s.arch.service = true → s.arch.condition = .ready →
    s.arch.nextEvent < 2048 → bytes = flashReadBytes s.flash req.addr req.len →
    (∀ (kind : RecordKind) (year index : Nat) (stamp : List Byte),
      (∃ st, j = .interval st data ∧ kind = .interval ∧ year = st.year ∧
          index = (st.day - 1) * 48 + st.index ∧ stamp = istampBe (some st)) ∨
        (∃ d, j = .day d data ∧ kind = .day ∧ year = d.year ∧ index = d.day - 1 ∧
          stamp = be 2 d.year ++ be 2 d.day ++ [0xFF]) ∨
        (j = .summary year index data ∧ kind = .summary ∧
          stamp = be 2 year ++ [0xFF, 0xFF, 0xFF]) →
      e.year = some year →
      ∃ t, exec .flashReadDone s = .next t ∧ t = { s with arch := t.arch } ∧
        (slotState bytes = .erased → t.arch.queue = s.arch.queue ∧
          t.arch.activity = .programming ⟨.record, slotAddr i kind index, data, 10⟩) ∧
        (slotState bytes ≠ .erased →
          t.arch.queue = [.event (writeConflictEvent s.mark.calendar kind.code
            (if slotState bytes = .committed then 3 else 2) stamp)] ∧
          t.arch.counts.dropped = min 65535 (s.arch.counts.dropped + 1))) ∧
    (j = .event data →
      ∃ t, exec .flashReadDone s = .next t ∧ t = { s with arch := t.arch } ∧
        (slotState bytes = .erased → t.arch.queue = s.arch.queue ∧
          t.arch.nextEvent = s.arch.nextEvent + 1 ∧ t.arch.activity =
            .programming ⟨.record, slotAddr i .event s.arch.nextEvent, data, 10⟩) ∧
        (slotState bytes ≠ .erased → s.arch.nextEvent + 1 < 2048 → s.arch.jobFound = false →
          t.arch.queue = s.arch.queue ∧ t.arch.nextEvent = s.arch.nextEvent + 1 ∧
          t.arch.activity = .reading ⟨.job, slotAddr i .event (s.arch.nextEvent + 1), 32⟩))

/-- The model's choice (log 40): the completion of an operation outside the device's 8 MiB
is a fault. -/
def Obligations.OperationOutsideTheDeviceFaults : Prop :=
  ∀ (s : State) (req : ReadReq) (p : Program) (ok : Bool),
    (s.arch.activity = .reading req → flashSize < req.addr + req.len →
      exec .flashReadDone s = .fault .flashAddress) ∧
    (s.arch.activity = .programming p → flashSize < p.addr + p.data.length →
      exec (.flashProgramDone ok) s = .fault .flashAddress ∧
      exec .programTimeout s = .fault .flashAddress)

/-- An accepted RELEASE marks the area, appends its marker job and joins the tail of the erase list;
the reply is ACCEPTED. -/
def Obligations.AcceptedReleaseJoinsTheLists : Prop :=
  ∀ (s : State) (j : Joined) (f : RxFrame) (i : Area) (e : AreaEntry) (r : ReadReq),
    s.bus.joined = some j → f.source ≠ 0 → f.source.toNat ≠ j.number → f.dest ≠ 0 →
    f.dest.toNat = j.number → f.payload.length = 2 → s.loader.station ≠ .halted →
    s.arch.activity = .reading r → releaseOutcome (field f.payload 0 2) s.arch = .accepted →
    s.arch.findYear (field f.payload 0 2) = some (i, e) →
    ∃ t, exec (.release f) s = .next t ∧ t = { s with arch := t.arch, bus := t.bus } ∧
      t.arch.queue = s.arch.queue ++ [.released i] ∧
      t.arch.erases = s.arch.erases ++ [⟨i, 1⟩] ∧ t.arch.releaseWaiting i = true ∧
      t.bus = s.bus.submit (buildFrame 16 f.source.toNat (replyPayload 12 .accepted 0 f.payload))

/-- An accepted FETCH becomes active and, with room in the transmit queue and its first index in the
section, requests the read of it; it sends no reply yet. That the first read is requested in the event of
the FETCH itself is inferred from R150 (log 25). -/
def Obligations.AcceptedFetchRequestsItsRead : Prop :=
  ∀ (s : State) (j : Joined) (f : RxFrame) (i : Area) (e : AreaEntry) (k : RecordKind),
    s.bus.joined = some j → f.source ≠ 0 → f.source.toNat ≠ j.number → f.dest ≠ 0 →
    f.dest.toNat = j.number → f.payload.length = 6 → s.loader.station ≠ .halted →
    s.arch.activity = .idle → s.arch.reads = [] → s.bus.queue.length < 12 →
    fetchOutcome (field f.payload 0 2) (field f.payload 2 1) (field f.payload 5 1) s.arch =
      .accepted →
    s.arch.findYear (field f.payload 0 2) = some (i, e) →
    recordKindOf (field f.payload 2 1) = some k → field f.payload 3 2 < sectionSlots k →
    ∃ t, exec (.fetch f) s = .next t ∧ t = { s with arch := t.arch } ∧
      t.arch.activity =
        .reading ⟨.fetch, slotAddr i k (field f.payload 3 2), slotSize k⟩ ∧
      t.arch.fetch = some { newFetch f i k with reading := true }

/-- FETCH_NEXT_READ requests the read of the next index; beyond the section's last slot it ends the
fetch with RANGE and the number sent. FETCH_ABANDON ends it without a reply and counts it. The read's end
submits the slot's RECORD frame; the last one asked for ends the fetch with DONE and the number sent, and
before it the fetch goes on where the transmit queue has room. That the next read is requested in the
event of the last one's end, and that RANGE is answered beyond the section even where the area is ERASING,
is read from R150 (log 25). -/
def Obligations.FetchGoesOnAndEnds : Prop :=
  ∀ (s : State) (ft : FetchState), s.arch.fetch = some ft →
    (ft.reading = false → s.bus.queue.length < 12 → ft.next < sectionSlots ft.kind →
      s.arch.areaState ft.area ≠ some .erasing → s.arch.activity = .idle → s.arch.reads = [] →
      exec .fetchNextRead s = .next { s with arch := { s.arch with
        fetch := some { ft with reading := true }
        activity :=
          .reading ⟨.fetch, slotAddr ft.area ft.kind ft.next, slotSize ft.kind⟩ } }) ∧
    (ft.reading = false → s.bus.queue.length < 12 → sectionSlots ft.kind ≤ ft.next →
      exec .fetchNextRead s = .next
        { s with
          arch := { s.arch with fetch := none }
          bus := s.bus.submit
            (buildFrame 16 ft.requester (replyPayload 8 .range ft.sent ft.request)) }) ∧
    (∃ t, exec .fetchAbandon s = .next t ∧ t = { s with arch := t.arch } ∧
      t.arch.fetch = none ∧ t.arch.queue = s.arch.queue ∧ t.arch.table = s.arch.table ∧
      t.arch.counts = { s.arch.counts with abandoned := count16 s.arch.counts.abandoned }) ∧
    ∀ req frame, s.arch.activity = .reading req → req.who = .fetch →
      req.addr + req.len ≤ flashSize →
      frame = buildFrame 9 ft.requester
        (recordPayload ft.year ft.kind ft.next (flashReadBytes s.flash req.addr req.len)) →
      ∃ t, exec .flashReadDone s = .next t ∧ t = { s with arch := t.arch, bus := t.bus } ∧
        (ft.left = 1 → t.arch.fetch = none ∧ t.bus = (s.bus.submit frame).submit
          (buildFrame 16 ft.requester (replyPayload 8 .done (ft.sent + 1) ft.request))) ∧
        (2 ≤ ft.left → ft.next + 1 < sectionSlots ft.kind →
          s.arch.areaState ft.area ≠ some .erasing → t.bus = s.bus.submit frame ∧
          t.arch.fetch = some { ft with
            sent := ft.sent + 1, left := ft.left - 1, next := ft.next + 1, timer := 10000
            reading := decide (t.bus.queue.length < 12) })

/-- With room in the record queue, resumption submits its next late record and goes on: the last job
before the end brings ALIGNING with the current day held. A waiting list of one job with no day after it, as
late summary and year-end jobs make it, and their waiting for room are read from R154 (log 23). A read of
resumption: a committed interval at or after the current one halts the station with its CALENDAR_BEHIND
event, else the search goes down a slot; a day's committed slots are taken one by one, the current day's
last one brings ALIGNING, and an earlier day's closes that day late and settles the next. That one read
waits at a time is the model's choice (log 21). -/
def Obligations.QueueRoomTakesTheLateRecord : Prop :=
  (∀ (s : State) (j : Job) (r : ReadReq), s.arch.resume = .submit [j] none →
    s.arch.queue.length < 16 → s.arch.activity = .reading r → s.arch.condition = .ready →
    ∃ t, exec .resumeQueueRoom s = .next t ∧
      t = { s with loader := t.loader, eng := t.eng, arch := t.arch } ∧
      t.arch = { s.arch with queue := s.arch.queue ++ [j], resume := .off } ∧
      t.loader = { s.loader with station := .aligning } ∧
      t.eng = { s.eng with held := s.mark.calendar.map IStamp.toDay }) ∧
  ∀ (s : State) (req : ReadReq) (i : Area) (e : AreaEntry) (year : Nat) (now : IStamp)
    (bytes : List Byte), s.arch.activity = .reading req → req.who = .resume →
    req.addr + req.len ≤ flashSize → s.arch.openArea = some (i, e) → e.year = some year →
    s.mark.calendar = some now → s.arch.queue = [] → s.arch.reads = [] → s.arch.opening = none →
    s.arch.erases = [] → s.arch.service = true → s.arch.condition = .ready →
    s.arch.jobFound = false → s.arch.nextEvent < 2048 →
    bytes = flashReadBytes s.flash req.addr req.len →
    ∃ t, exec .flashReadDone s = .next t ∧
      t = { s with loader := t.loader, mark := t.mark, eng := t.eng, arch := t.arch } ∧
      (∀ slot stamp, s.arch.resume = .latest slot → stamp = ⟨year, slot / 48 + 1, slot % 48⟩ →
        (slotState bytes = .committed → stamp.before now = false →
          t.loader =
            { s.loader with station := .halted, haltReason := some .calendarBehind } ∧
          t.mark = { s.mark with
            pulse := none, clock := none, boundary := 1, sync := .stopped, holdOff := none,
            strays := 0 } ∧
          t.arch.resume = .off ∧ t.eng = s.eng ∧
          t.arch.queue =
            [.event (calendarBehindEvent (some now) (some year) (istampBe (some stamp)))]) ∧
        (slotState bytes ≠ .committed → s.lowSlot < slot → t.loader = s.loader ∧
          t.mark = s.mark ∧ t.eng = s.eng ∧ t.arch.resume = .latest (slot - 1) ∧
          t.arch.activity = .reading ⟨.resume, slotAddr i .interval (slot - 1), 96⟩)) ∧
      (∀ day index taken, s.arch.resume = .day day index →
        taken = (if slotState bytes = .committed then
          s.eng.takeInterval s.cfg (readInterval bytes) else s.eng) → t.mark = s.mark ∧
        (index < 47 → t.loader = s.loader ∧ t.eng = taken ∧
          t.arch.resume = .day day (index + 1) ∧
          t.arch.activity =
            .reading ⟨.resume, slotAddr i .interval ((day.day - 1) * 48 + (index + 1)), 96⟩) ∧
        (index = 47 → now.toDay = day →
          t.loader = { s.loader with station := .aligning } ∧
          t.eng = { taken with held := some day } ∧ t.arch.resume = .off) ∧
        (index = 47 → now.toDay ≠ day → day.year = year → day.day < lastDayOf year →
          t.loader = s.loader ∧ t.eng.held = some ⟨year, day.day + 1⟩ ∧
          t.eng.day = DayAcc.cleared ∧ t.eng.dayExceedance = s.eng.dayExceedance ∧
          t.arch.resume = .day ⟨year, day.day + 1⟩ 0 ∧
          ∃ data, t.arch.queue = [.day day data]))

/-! ## The station bus -/

/-- A STATUS is answered by a report of 193 bytes to the requester, whatever the station state; the
first byte is the station state. -/
def Obligations.StatusIsAnswered : Prop :=
  ∀ (s : State) (j : Joined) (f : RxFrame), s.bus.joined = some j → f.source ≠ 0 →
    f.source.toNat ≠ j.number → f.dest ≠ 0 → f.dest.toNat = j.number → f.payload = [] →
    exec (.status f) s = .next
      { s with bus := s.bus.submit (buildFrame 14 f.source.toNat (statusPayload s)) } ∧
    (statusPayload s).length = 193 ∧
    (statusPayload s).head? = some (byte s.loader.station.code)

/-- A RESTART is answered ACCEPTED in every state and starts the restart timer unless one runs. The
success of that REPLY's attempt, or the timer's expiry before it, resets the station, which is then
LOADING. That the waiting commands stay is the model's choice (log 5), and that the raw inputs and the MARK
line stay as they are (log 6). -/
def Obligations.RestartResetsInTheEnd : Prop :=
  (∀ (s : State) (j : Joined) (f : RxFrame), s.bus.joined = some j → f.source ≠ 0 →
    f.source.toNat ≠ j.number → f.dest ≠ 0 → f.dest.toNat = j.number → f.payload = [] →
    ∃ t, exec (.restart f) s = .next t ∧ t = { s with bus := t.bus } ∧
      t.bus = { s.bus.submit { buildFrame 16 f.source.toNat (replyPayload 15 .accepted 0 []) with
          restartReply := true } with
        restart := if s.bus.restart.isSome then s.bus.restart else some 1000 }) ∧
  ∀ (i : Instr) (s : State), s.bus.restart.isSome = true →
    (i = .restartTimerExpiry ∨ (i = .attemptSuccess ∧ ∃ g gs, s.bus.queue = g :: gs ∧
      g.inFlight = true ∧ g.kind = 16 ∧ g.restartReply = true)) →
    ∃ u, exec i s = .next u ∧ u.loader = ⟨.loading, .header, none, none, none⟩ ∧
      u.bus = Bus.reset ∧ u.mark = MarkUnit.reset ∧ u.exch = Exchange.reset ∧
      u.eng = Engine.reset ∧ u.chk = CheckUnit.reset ∧ u.arch = Archive.reset ∧
      u.port = SamplePort.reset ∧ u.filter = Filter.reset ∧ u.pending = s.pending ∧
      u.pins = { s.pins with resetHeld := false }

/-- A frame of an unknown kind is answered UNKNOWN_KIND when it is addressed to this station, and
disregarded when it is not; a REPLY, RECORD or STATUS_REPORT is disregarded. -/
def Obligations.UnknownAndForeignFrames : Prop :=
  ∀ (s : State) (j : Joined) (kind : Byte) (f : RxFrame), s.bus.joined = some j → f.source ≠ 0 →
    f.source.toNat ≠ j.number →
    (knownKinds.contains kind.toNat = false → f.dest ≠ 0 → f.dest.toNat = j.number →
      ∃ t, exec (.unknownKind kind f) s = .next t ∧ t = { s with bus := t.bus } ∧
        t.bus = s.bus.submit (buildFrame 16 f.source.toNat
          (replyPayload kind.toNat .unknownKind 0 f.payload))) ∧
    (kind = 9 ∨ kind = 14 ∨ kind = 16 ∨
        (kind ≠ 1 ∧ kind ≠ 2 ∧ kind ≠ 3 ∧ (f.dest = 0 ∨ f.dest.toNat ≠ j.number)) →
      exec (.frameDisregarded kind f) s = .next s)

/-- A broken line is counted as a bad frame. A whole frame with the station's own source is a
duplicate: counted, never dispatched, its timer started; the timer's expiry clears the mark. -/
def Obligations.BrokenAndDuplicateFrames : Prop :=
  ∀ (s : State) (j : Joined) (kind : Byte) (f : RxFrame) (line : List Byte),
    s.bus.joined = some j →
    (readLine line = none → ∃ t, exec (.badFrame line) s = .next t ∧ t = { s with bus := t.bus } ∧
      t.bus = { s.bus with counts :=
        { s.bus.counts with bad := count16 s.bus.counts.bad } }) ∧
    (f.source ≠ 0 → f.source.toNat = j.number →
      ∃ t, exec (.duplicateStation kind f) s = .next t ∧
        t = { s with bus := t.bus, arch := t.arch } ∧
        t.bus = { s.bus with
          duplicate := some 60000
          counts := { s.bus.counts with duplicate := count16 s.bus.counts.duplicate } } ∧
        t.busCause = true ∧ (s.bus.duplicate.isSome = true → t.arch = s.arch)) ∧
    exec .duplicateTimerExpiry s = .next { s with bus := { s.bus with duplicate := none } }

/-- The medium's fall to idle puts the head frame in flight; a busy medium ends the idle; a lost
contention leaves the frame in its place with its counts. -/
def Obligations.ContentionKeepsTheFrame : Prop :=
  ∀ (s : State) (j : Joined) (f : TxFrame) (fs : List TxFrame), s.bus.joined = some j →
    s.bus.queue = f :: fs → (∀ g ∈ f :: fs, g.inFlight = false) → f.age < 30000 →
    ∃ t u, exec .mediumIdle s = .next t ∧ t = { s with bus := t.bus } ∧
      t.bus = { s.bus with mediumIdle := false, queue := { f with inFlight := true } :: fs } ∧
      exec .contentionLost t = .next u ∧ u = { s with bus := { s.bus with mediumIdle := false } } ∧
      exec .mediumBusy s = .next u

/-- A successful attempt sends its frame out of the queue and ends the failures and BUS_FAULT. The station
then takes its own frame: a REPLY that is no RESTART's, a RECORD, a STATUS_REPORT and a SUMMARY have no
further effect, nor has a MINUTE while the station is not RECORDING or no subscription of its own names
it. -/
def Obligations.SuccessSendsTheFrame : Prop :=
  ∀ (s : State) (f : TxFrame) (fs : List TxFrame), s.bus.queue = f :: fs → f.inFlight = true →
    f.restartReply = false →
    (f.kind = 9 ∨ f.kind = 14 ∨ f.kind = 16 ∨
      (s.number ≤ 31 ∧ f.kind = 2 ∧ f.payload.length = 71) ∨
      (s.number ≤ 31 ∧ f.kind = 1 ∧ f.payload.length = 8 + 5 * field f.payload 7 1 ∧
        (s.loader.station ≠ .recording ∨
          ((readMinute f.payload).isSome = true ∧ (∀ p ∈ s.cfg.subs, p.station ≠ s.number) ∧
            s.cfg.plantSource ≠ some s.number)))) →
    ∃ t, exec .attemptSuccess s = .next t ∧ t = { s with bus := t.bus, arch := t.arch } ∧
      t.bus = { s.bus with queue := fs, failures := 0, fault := false } ∧
      (s.bus.fault = false → t.arch = s.arch)

/-- A failed attempt raises both counts; the eighth failure of a frame drops it, and the 32nd in a row
is BUS_FAULT with the BUS cause set. A MINUTE frame that has reached the stale age is withdrawn and
counted. -/
def Obligations.FailureCountsAndDrops : Prop :=
  ∀ (s : State) (f : TxFrame) (fs : List TxFrame), s.bus.queue = f :: fs → f.inFlight = true →
    (∀ g ∈ fs, g.inFlight = false) → s.bus.failures ≤ 254 →
    ∃ t, exec .attemptFailure s = .next t ∧ t = { s with bus := t.bus, arch := t.arch } ∧
      t.bus.failures = s.bus.failures + 1 ∧
      (f.failed < 7 → f.kind ≠ 1 ∨ f.age < 30000 →
        t.bus.queue = { f with failed := f.failed + 1, inFlight := false } :: fs ∧
        t.bus.counts = s.bus.counts) ∧
      (f.failed < 7 → f.kind = 1 → 30000 ≤ f.age → t.bus.queue = fs ∧
        t.bus.counts = { s.bus.counts with stale := count16 s.bus.counts.stale }) ∧
      (7 ≤ f.failed → t.bus.queue = fs ∧
        t.bus.counts = { s.bus.counts with failed := count16 s.bus.counts.failed }) ∧
      (31 ≤ s.bus.failures → t.bus.fault = true ∧ t.busCause = true) ∧
      (s.bus.failures < 31 → t.bus.fault = s.bus.fault)

/-- A stale MINUTE frame that is not in flight is withdrawn and counted. That MINUTE_FRAME_STALE speaks of
the first MINUTE frame, whatever age it has, is the model's choice (logs 41 and 4). -/
def Obligations.StaleMinuteIsWithdrawn : Prop :=
  ∀ (s : State) (f : TxFrame) (fs : List TxFrame), s.bus.queue = f :: fs → f.kind = 1 →
    f.inFlight = false →
    exec .minuteFrameStale s = .next { s with bus :=
      { s.bus with queue := fs
                   counts := { s.bus.counts with stale := count16 s.bus.counts.stale } } }

/-- A frame submitted to a full queue is dropped unless a waiting frame has a greater priority number,
and then the oldest of the greatest leaves, and the frame takes its place by priority; the frame in flight is
never evicted. -/
def Obligations.FullQueueEvictsTheLeastUrgent : Prop :=
  ∀ (b : Bus) (f : TxFrame), b.queue.length = 12 →
    (b.submit f).counts = { b.counts with dropped := count16 b.counts.dropped } ∧
    (∀ g ∈ b.queue, g.inFlight = true → g ∈ (b.submit f).queue) ∧
    ((∀ g ∈ b.queue, g.inFlight = false → g.priority ≤ f.priority) →
      (b.submit f).queue = b.queue) ∧
    ((∃ g ∈ b.queue, g.inFlight = false ∧ f.priority < g.priority) →
      f ∈ (b.submit f).queue ∧ (b.submit f).queue.length = 12 ∧
      (b.submit f).queue = insertFrame f (evictFrame (greatestPriority b.queue) b.queue) ∧
      ∃ before g after, b.queue = before ++ g :: after ∧ g.inFlight = false ∧
        f.priority < g.priority ∧
        (∀ h ∈ b.queue, h.inFlight = false → h.priority ≤ g.priority) ∧
        (∀ h ∈ before, h.inFlight = false → h.priority < g.priority) ∧
        (b.submit f).queue = insertFrame f (before ++ after))

/-- ALERT is active while loading and halted, and otherwise exactly while a cause is set whose bit in the
mask is set, for every mask; its pin is pulled low exactly while it is active. -/
def Obligations.AlertFollowsStateAndMask : Prop :=
  ∀ s : State, s.outputs.alertPulled = s.alertActive ∧
    (s.loader.station = .loading ∨ s.loader.station = .halted → s.alertActive = true) ∧
    (s.loader.station ≠ .loading → s.loader.station ≠ .halted →
      (s.alertActive = true ↔ ∃ k set, s.cfg.station.mask.getLsbD k = true ∧ set = true ∧
        (k, set) ∈ [(0, s.eng.exceedance), (1, s.eng.dayExceedance), (2, s.driftCause),
          (3, s.exch.refLost), (4, s.archiveCause), (5, s.mark.stuck), (6, s.busCause)]))
end

