-- ==== Sys2Proof/Laws/Flash.lean ====
section
/-! SUPPORT. The flash as memory: every operation keeps the canonical form, what a read gives after a
write, a program or an erase, and that equal contents are equal lists. -/

namespace Sys2Proof.Machine

/-- The canonical form, element by element. -/
theorem flashWf_cons (c : Host.Cell) (m : List Host.Cell) :
    flashWf (c :: m) = true ↔
      c.2 ≠ erasedByte ∧ (∀ d ∈ m, c.1 < d.1) ∧ flashWf m = true := by
  induction m generalizing c with
  | nil => simp [flashWf]
  | cons d m ih =>
    simp only [flashWf, Bool.and_eq_true, bne_iff_ne, ne_eq, decide_eq_true_eq, List.mem_cons,
      forall_eq_or_imp]
    constructor
    · rintro ⟨⟨h1, h2⟩, h3⟩
      refine ⟨h1, ⟨h2, fun e he => ?_⟩, h3⟩
      exact Nat.lt_trans h2 (((ih d).mp h3).2.1 e he)
    · rintro ⟨h1, ⟨h2, -⟩, h3⟩
      exact ⟨⟨h1, h2⟩, h3⟩

@[simp] theorem flashWf_nil : flashWf [] = true := rfl

/-- The canonical form as a list of rising addresses without an erased byte. -/
theorem flashWf_iff (m : List Host.Cell) :
    flashWf m = true ↔ (∀ c ∈ m, c.2 ≠ erasedByte) ∧ m.Pairwise fun c d => c.1 < d.1 := by
  induction m with
  | nil => simp
  | cons c m ih =>
    rw [flashWf_cons, ih, List.pairwise_cons]
    simp only [List.mem_cons, forall_eq_or_imp]
    tauto

/-! ## Writes -/

theorem flashWrite_mem {m : List Host.Cell} {a : Nat} {b : Byte} {c : Host.Cell}
    (h : c ∈ flashWrite m a b) : c ∈ m ∨ c = (a, b) := by
  induction m with
  | nil => unfold flashWrite at h; split at h <;> simp_all
  | cons d m ih =>
    unfold flashWrite at h
    split at h
    · rcases List.mem_cons.mp h with rfl | h
      · simp
      · rcases ih h with h | h <;> simp [h]
    · split at h <;> split at h <;> simp_all <;> tauto

/-- A write keeps the canonical form. -/
theorem flashWrite_wf {m : List Host.Cell} (a : Nat) (b : Byte) (h : flashWf m = true) :
    flashWf (flashWrite m a b) = true := by
  induction m with
  | nil => unfold flashWrite; split <;> simp_all [flashWf]
  | cons d m ih =>
    obtain ⟨h1, h2, h3⟩ := (flashWf_cons d m).mp h
    unfold flashWrite
    split
    · refine (flashWf_cons _ _).mpr ⟨h1, fun e he => ?_, ih h3⟩
      rcases flashWrite_mem he with he | rfl
      · exact h2 e he
      · assumption
    · split
      · split
        · exact h3
        · refine (flashWf_cons _ _).mpr ⟨by assumption, fun e he => ?_, h3⟩
          have := h2 e he; simp_all
      · split
        · exact h
        · refine (flashWf_cons _ _).mpr ⟨by assumption, fun e he => ?_, h⟩
          simp only [List.mem_cons] at he
          rcases he with rfl | he
          · simp only; omega
          · have := h2 e he; simp only; omega

/-- A read of an address below every listed one gives the erased byte. -/
theorem flashRead_below {m : List Host.Cell} {a : Nat} (h : ∀ c ∈ m, a < c.1) :
    flashRead m a = erasedByte := by
  induction m with
  | nil => rfl
  | cons c m ih =>
    have hc := h c (by simp)
    rw [flashRead, if_neg (by omega), ih fun d hd => h d (by simp [hd])]

/-- A read after a write: the byte written at its address, every other byte as before. -/
theorem flashRead_write {m : List Host.Cell} (a x : Nat) (b : Byte) (h : flashWf m = true) :
    flashRead (flashWrite m a b) x = if x = a then b else flashRead m x := by
  induction m with
  | nil =>
    unfold flashWrite
    split
    · simp_all [flashRead]
    · by_cases hx : x = a
      · simp [flashRead, hx]
      · simp [flashRead, hx, Ne.symm hx]
  | cons d m ih =>
    obtain ⟨h1, h2, h3⟩ := (flashWf_cons d m).mp h
    unfold flashWrite
    split
    · rename_i hlt
      simp only [flashRead, ih h3]
      by_cases hd : d.1 = x
      · simp only [hd, if_true]; rw [if_neg (by omega)]
      · simp [hd]
    · rename_i hge
      split
      · rename_i heq
        split
        · rename_i hb
          by_cases hx : x = a
          · subst hx
            rw [if_pos rfl, hb, flashRead_below]
            intro c hc; have := h2 c hc; omega
          · rw [if_neg hx, flashRead, if_neg (by omega)]
        · by_cases hx : x = a
          · simp [flashRead, hx]
          · rw [flashRead, if_neg (fun h => hx h.symm), if_neg hx, flashRead, if_neg (by omega)]
      · rename_i hne
        split
        · rename_i hb
          by_cases hx : x = a
          · subst hx
            rw [if_pos rfl, hb, flashRead_below]
            intro c hc
            rcases List.mem_cons.mp hc with rfl | hc
            · omega
            · have := h2 c hc; omega
          · rw [if_neg hx]
        · by_cases hx : x = a
          · simp [flashRead, hx]
          · rw [flashRead, if_neg (fun h => hx h.symm), if_neg hx]

/-- A program of several bytes keeps the canonical form. -/
theorem flashWriteBytes_wf {m : List Host.Cell} (a : Nat) (bs : List Byte) (h : flashWf m = true) :
    flashWf (flashWriteBytes m a bs) = true := by
  induction bs generalizing m a with
  | nil => exact h
  | cons b bs ih => exact ih (a + 1) (flashWrite_wf a b h)

/-- A read after a program: the bytes programmed in its range, every other byte as before. -/
theorem flashRead_writeBytes {m : List Host.Cell} (a x : Nat) (bs : List Byte)
    (h : flashWf m = true) :
    flashRead (flashWriteBytes m a bs) x =
      if a ≤ x ∧ x < a + bs.length then bs.getD (x - a) erasedByte else flashRead m x := by
  induction bs generalizing m a with
  | nil => simp only [flashWriteBytes, List.length_nil]; rw [if_neg (by omega)]
  | cons b bs ih =>
    rw [flashWriteBytes, ih _ (flashWrite_wf a b h), flashRead_write a x b h]
    simp only [List.length_cons]
    by_cases h1 : a + 1 ≤ x ∧ x < a + 1 + bs.length
    · rw [if_pos h1, if_pos (by omega), show x - a = (x - (a + 1)) + 1 by omega]
      rfl
    · rw [if_neg h1]
      by_cases hx : x = a
      · subst hx; simp
      · rw [if_neg hx, if_neg (by omega)]

/-! ## Erases -/

theorem flashFilter_wf {m : List Host.Cell} (p : Host.Cell → Bool) (h : flashWf m = true) :
    flashWf (m.filter p) = true := by
  rw [flashWf_iff] at *
  exact ⟨fun c hc => h.1 c (List.mem_of_mem_filter hc), h.2.filter _⟩

/-- An erase keeps the canonical form. -/
theorem flashErase_wf {m : List Host.Cell} (a len : Nat) (h : flashWf m = true) :
    flashWf (flashErase m a len) = true := flashFilter_wf _ h

/-- A filter that looks at addresses only leaves the bytes it keeps. -/
theorem flashRead_filter (m : List Host.Cell) (p : Nat → Bool) (x : Nat) :
    flashRead (m.filter fun c => p c.1) x = if p x then flashRead m x else erasedByte := by
  induction m with
  | nil => simp [flashRead]
  | cons c m ih =>
    rw [List.filter_cons]
    split
    · rename_i hc
      simp only [flashRead, ih]
      split
      · rename_i hx; subst hx; simp [hc]
      · rfl
    · rename_i hc
      rw [ih]
      simp only [flashRead]
      by_cases hx : c.1 = x
      · subst hx; simp [hc]
      · simp [hx]

/-- A read after an erase: the erased byte in its range, every other byte as before. -/
theorem flashRead_erase (m : List Host.Cell) (a len x : Nat) :
    flashRead (flashErase m a len) x =
      if a ≤ x ∧ x < a + len then erasedByte else flashRead m x := by
  unfold flashErase
  rw [flashRead_filter m (fun k => decide (k < a) || decide (a + len ≤ k))]
  by_cases h : a ≤ x ∧ x < a + len
  · rw [if_pos h, if_neg]; simp; omega
  · rw [if_neg h, if_pos]; simp; omega

/-- The cells an erase that was cut off leaves in its range. -/
def scrambled (a len : Nat) (g : Nat → Byte) : List Host.Cell :=
  (List.range len).filterMap fun i => if g i = erasedByte then none else some (a + i, g i)

theorem scrambled_mem {a len : Nat} {g : Nat → Byte} {c : Host.Cell} (h : c ∈ scrambled a len g) :
    a ≤ c.1 ∧ c.1 < a + len ∧ c.2 ≠ erasedByte := by
  obtain ⟨i, hi, h⟩ := List.mem_filterMap.mp h
  split at h
  · cases h
  · cases h; simp_all

/-- An erase that is cut off keeps the canonical form. -/
theorem flashScramble_wf {m : List Host.Cell} (a len : Nat) (g : Nat → Byte)
    (h : flashWf m = true) : flashWf (flashScramble m a len g) = true := by
  have hm := (flashWf_iff m).mp h
  rw [flashWf_iff]
  show (∀ c ∈ (_ ++ scrambled a len g) ++ _, _) ∧ List.Pairwise _ ((_ ++ scrambled a len g) ++ _)
  constructor
  · intro c hc
    simp only [List.mem_append, List.mem_filter] at hc
    rcases hc with (hc | hc) | hc
    · exact hm.1 c hc.1
    · exact (scrambled_mem hc).2.2
    · exact hm.1 c hc.1
  · rw [List.pairwise_append, List.pairwise_append]
    refine ⟨⟨hm.2.filter _, ?_, ?_⟩, hm.2.filter _, ?_⟩
    · refine List.Pairwise.filterMap _ ?_ List.pairwise_lt_range
      intro i j hij x hx y hy
      split at hx <;> split at hy <;> simp_all
      subst hx; subst hy; simpa using hij
    · intro c hc d hd
      simp only [List.mem_filter, decide_eq_true_eq] at hc
      have := scrambled_mem hd; omega
    · intro c hc d hd
      simp only [List.mem_append, List.mem_filter, decide_eq_true_eq] at hc hd
      rcases hc with hc | hc
      · omega
      · have := scrambled_mem hc; omega

/-! ## Equal contents are equal lists -/

theorem flashRead_head {c : Host.Cell} {m : List Host.Cell} : flashRead (c :: m) c.1 = c.2 := by
  simp [flashRead]

/-- Two flashes in canonical form that read alike everywhere are equal. -/
theorem flash_ext {m n : List Host.Cell} (hm : flashWf m = true) (hn : flashWf n = true)
    (h : ∀ a, flashRead m a = flashRead n a) : m = n := by
  induction m generalizing n with
  | nil =>
    cases n with
    | nil => rfl
    | cons d n =>
      have := h d.1
      rw [flashRead_head] at this
      exact absurd this.symm ((flashWf_cons d n).mp hn).1
  | cons c m ih =>
    obtain ⟨hc1, hc2, hc3⟩ := (flashWf_cons c m).mp hm
    cases n with
    | nil =>
      have := h c.1
      rw [flashRead_head] at this
      exact absurd this hc1
    | cons d n =>
      obtain ⟨hd1, hd2, hd3⟩ := (flashWf_cons d n).mp hn
      have hcd : c.1 = d.1 := by
        rcases Nat.lt_trichotomy c.1 d.1 with hlt | heq | hgt
        · have := h c.1
          rw [flashRead_head, flashRead_below (m := d :: n)] at this
          · exact absurd this hc1
          · intro e he
            rcases List.mem_cons.mp he with rfl | he
            · exact hlt
            · have := hd2 e he; omega
        · exact heq
        · have := h d.1
          rw [flashRead_head, flashRead_below (m := c :: m)] at this
          · exact absurd this.symm hd1
          · intro e he
            rcases List.mem_cons.mp he with rfl | he
            · exact hgt
            · have := hc2 e he; omega
      have hv : c.2 = d.2 := by
        have := h c.1
        rwa [flashRead_head, hcd, flashRead_head] at this
      have hrest : m = n := by
        refine ih hc3 hd3 fun a => ?_
        have := h a
        simp only [flashRead] at this
        by_cases ha : c.1 = a
        · rw [flashRead_below fun e he => by have := hc2 e he; omega,
            flashRead_below fun e he => by have := hd2 e he; omega]
        · rwa [if_neg ha, if_neg (by omega)] at this
      rw [hrest, show c = d from Prod.ext hcd hv]

/-! ## The operation in flight is cut off -/

/-- A range that reads a programmed byte is not erased. -/
theorem flashErased_of_read {m : List Host.Cell} {a len x : Nat} (h1 : a ≤ x) (h2 : x < a + len)
    (h : flashRead m x ≠ erasedByte) : flashErased m a len = false := by
  induction m with
  | nil => exact absurd rfl h
  | cons c m ih =>
    unfold flashRead at h
    simp only [flashErased, List.all_cons, Bool.and_eq_false_iff] at ih ⊢
    split at h
    · rename_i e
      left
      simp [e, h]
      omega
    · exact Or.inr (ih h)

theorem headerLen_eq : headerLen = 4096 := rfl

/-- A byte of the eight that mount reads of a header. -/
theorem getD_flashReadBytes (m : List Host.Cell) (a k : Nat) (h : k < 8) :
    (flashReadBytes m a 8).getD k 0xFF = flashRead m (a + k) := by
  unfold flashReadBytes
  rw [List.getD_eq_getElem?_getD, List.getElem?_map, List.getElem?_range h]
  rfl

/-- The bytes of a header that decide between ERASING, RELEASED and the other states (R134). -/
theorem headerState_read {m : List Host.Cell} {base own : Nat} :
    headerState (flashReadBytes m base 8) (flashErased m base headerLen) own =
      if flashErased m base headerLen then .free
      else if flashRead m (base + 7) = 0x00 then .erasing
      else if flashRead m (base + 6) = 0x00 then .released
      else if flashRead m (base + 5) = 0x00 then
        (if field (flashReadBytes m base 8) 2 1 = own then .closed else .foreign)
      else if flashRead m (base + 4) = 0x00 then
        (if field (flashReadBytes m base 8) 2 1 = own then .opened else .foreign)
      else .released := by
  unfold headerState
  dsimp only
  simp only [getD_flashReadBytes m base 7 (by omega), getD_flashReadBytes m base 6 (by omega),
    getD_flashReadBytes m base 5 (by omega), getD_flashReadBytes m base 4 (by omega), beq_iff_eq]

/-- A header that reads RELEASED: its marker programmed, or no marker and not erased. -/
theorem headerState_released {m : List Host.Cell} {base own : Nat}
    (he : flashErased m base headerLen = false) (h7 : flashRead m (base + 7) ≠ 0x00)
    (h : flashRead m (base + 6) = 0x00 ∨
      (flashRead m (base + 5) ≠ 0x00 ∧ flashRead m (base + 4) ≠ 0x00)) :
    headerState (flashReadBytes m base 8) (flashErased m base headerLen) own = .released := by
  rw [headerState_read, if_neg (by simp [he]), if_neg h7]
  split
  · rfl
  · rename_i h6
    rcases h with h | ⟨h5, h4⟩
    · exact absurd h h6
    · rw [if_neg h5, if_neg h4]

/-- A header whose marker an erase has cleared is as it stood, or has lost ERASING and is not erased. -/
theorem cutMarker_cases (draw base : Nat) (m : List Host.Cell) :
    cutMarker draw base m = m ∨ ∃ b, b ≠ 0x00 ∧ cutMarker draw base m = flashWrite m (base + 7) b ∧
      flashErased (flashWrite m (base + 7) b) base headerLen = false := by
  unfold cutMarker
  obtain ⟨b, hb⟩ : ∃ b, b = if Config.cutErase draw 7 = 0x00 then erasedByte
    else Config.cutErase draw 7 := ⟨_, rfl⟩
  dsimp only
  rw [← hb]
  split
  · exact Or.inl rfl
  · rename_i hg
    refine Or.inr ⟨b, ?_, rfl, Bool.not_eq_true _ ▸ hg⟩
    rw [hb]
    split
    · decide
    · assumption

/-- What a header erase that is cut off leaves of a header that reads ERASING: the header reads ERASING or
RELEASED, so that mount erases it again (R142, R152). That RELEASED was programmed, or neither OPEN nor
CLOSED was, holds of every header that the station has put on the erase list. -/
theorem cutErased_header {m : List Host.Cell} {draw own : Nat} {er : EraseRun} {base : Nat}
    (hb : base = areaBase er.area) (hs : 48 ≤ er.step) (hw : flashWf m = true)
    (he : headerState (flashReadBytes m base 8) (flashErased m base headerLen) own = .erasing)
    (hr : flashRead m (base + 6) = 0x00 ∨
      (flashRead m (base + 5) ≠ 0x00 ∧ flashRead m (base + 4) ≠ 0x00)) :
    headerState (flashReadBytes (cutErased draw er m) base 8)
        (flashErased (cutErased draw er m) base headerLen) own = .erasing ∨
      headerState (flashReadBytes (cutErased draw er m) base 8)
        (flashErased (cutErased draw er m) base headerLen) own = .released := by
  unfold cutErased
  rw [if_neg (by omega), ← hb]
  split
  · exact Or.inl he
  · rcases cutMarker_cases draw base m with h | ⟨b, hb0, h, hg⟩
    · rw [h]; exact Or.inl he
    · right
      rw [h]
      apply headerState_released hg <;> simp only [flashRead_write _ _ _ hw]
      · simpa using hb0
      · simpa using hr
  · right
    have hwe : flashWf (flashErase m base headerLen) = true := flashErase_wf _ _ hw
    have hl : (cutHeaderBytes draw).length ≤ 8 := by
      unfold cutHeaderBytes; dsimp only; split <;> simp
    have hz : ∀ k, 4 ≤ k → k < 8 → (cutHeaderBytes draw).getD k erasedByte ≠ 0x00 := by
      intro k h1 h2
      unfold cutHeaderBytes
      dsimp only
      split
      · have : k ≠ 0 := by omega
        obtain ⟨j, rfl⟩ := Nat.exists_eq_succ_of_ne_zero this
        simp [erasedByte]
      · rw [List.getD_eq_getElem?_getD, List.getElem?_map, List.getElem?_range h2]
        simp only [Option.map_some, Option.getD_some, h1, decide_true, Bool.true_and]
        split <;> simp_all [erasedByte]
    have hne : ∃ k, k < 8 ∧ (cutHeaderBytes draw).getD k erasedByte ≠ erasedByte := by
      unfold cutHeaderBytes
      dsimp only
      split
      · exact ⟨0, by omega, by decide⟩
      · rename_i h
        rw [List.all_eq_true] at h
        push Not at h
        obtain ⟨b, hb, hbe⟩ := h
        obtain ⟨k, hk, rfl⟩ := List.mem_iff_getElem.mp hb
        refine ⟨k, by simpa using hk, ?_⟩
        rw [List.getD_eq_getElem?_getD, List.getElem?_eq_getElem hk]
        simpa using hbe
    have hread : ∀ k, k < 8 → flashRead
        (flashWriteBytes (flashErase m base headerLen) base (cutHeaderBytes draw)) (base + k) =
          (cutHeaderBytes draw).getD k erasedByte := by
      intro k hk
      rw [flashRead_writeBytes _ _ _ hwe, flashRead_erase]
      split
      · rw [Nat.add_sub_cancel_left]
      · rw [if_pos (by rw [headerLen_eq]; omega), List.getD_eq_default]
        omega
    obtain ⟨k, hk, hkne⟩ := hne
    apply headerState_released
    · exact flashErased_of_read (x := base + k) (by omega) (by rw [headerLen_eq]; omega)
        (by rw [hread k hk]; exact hkne)
    · rw [hread 7 (by omega)]; exact hz 7 (by omega) (by omega)
    · rw [hread 5 (by omega), hread 4 (by omega)]
      exact Or.inr ⟨hz 5 (by omega) (by omega), hz 4 (by omega) (by omega)⟩

/-- A cut-off marker program leaves a programmed byte programmed. -/
theorem cutData_marker (draw : Nat) (reset : Bool) (old : Nat → Byte) (b : Byte)
    (hb : b ≠ erasedByte) : ∃ x, cutData draw reset false old [b] = [x] ∧
      (x = erasedByte → old 0 = erasedByte) := by
  refine ⟨_, rfl, ?_⟩
  dsimp only
  rw [if_neg hb]
  simp only [Bool.not_false, if_true]
  split
  · exact id
  · exact fun h => absurd h (by assumption)

theorem cutErased_wf {m : List Host.Cell} (draw : Nat) (er : EraseRun) (h : flashWf m = true) :
    flashWf (cutErased draw er m) = true := by
  unfold cutErased
  split
  · exact flashScramble_wf _ _ _ h
  · split
    · exact h
    · rcases cutMarker_cases draw (areaBase er.area) m with e | ⟨b, -, e, -⟩ <;> rw [e]
      · exact h
      · exact flashWrite_wf _ _ h
    · exact flashWriteBytes_wf _ _ (flashErase_wf _ _ h)

/-- What cutting off the operation in flight does: the flash in its form, one draw at most. -/
theorem cutFlash_wf (r : Bool) (s : State) (h : flashWf s.flash = true) :
    flashWf (cutFlash r s).flash = true := by
  unfold cutFlash
  split
  · exact flashWriteBytes_wf _ _ h
  · exact cutErased_wf _ _ h
  · exact cutErased_wf _ _ h
  · exact cutErased_wf _ _ h
  · exact h

end Sys2Proof.Machine
end

