-- ==== Sys2Proof/Laws/State.lean ====
section
/-! SUPPORT. What the plain updates of the state leave: one lemma for each field an update does not
write, and the written field where its value is short. -/

namespace Sys2Proof.Machine

variable (s : State)

@[simp] theorem select_pending : (select s).pending = s.pending := rfl
@[simp] theorem select_draws : (select s).draws = s.draws := rfl
@[simp] theorem select_pins : (select s).pins = s.pins := rfl
@[simp] theorem select_loader : (select s).loader = s.loader := rfl
@[simp] theorem select_filter : (select s).filter = s.filter := rfl
@[simp] theorem select_port : (select s).port = s.port := rfl
@[simp] theorem select_mark : (select s).mark = s.mark := rfl
@[simp] theorem select_exch : (select s).exch = s.exch := rfl
@[simp] theorem select_eng : (select s).eng = s.eng := rfl
@[simp] theorem select_chk : (select s).chk = s.chk := rfl
@[simp] theorem select_bus : (select s).bus = s.bus := rfl
@[simp] theorem select_flash : (select s).flash = s.flash := rfl
theorem select_arch : (select s).arch = selectWith s.mark.calendar s.number 64 s.arch := rfl

@[simp] theorem submitJob_pending (j : Job) : (submitJob j s).pending = s.pending := rfl
@[simp] theorem submitJob_draws (j : Job) : (submitJob j s).draws = s.draws := rfl
@[simp] theorem submitJob_pins (j : Job) : (submitJob j s).pins = s.pins := rfl
@[simp] theorem submitJob_loader (j : Job) : (submitJob j s).loader = s.loader := rfl
@[simp] theorem submitJob_filter (j : Job) : (submitJob j s).filter = s.filter := rfl
@[simp] theorem submitJob_port (j : Job) : (submitJob j s).port = s.port := rfl
@[simp] theorem submitJob_mark (j : Job) : (submitJob j s).mark = s.mark := rfl
@[simp] theorem submitJob_exch (j : Job) : (submitJob j s).exch = s.exch := rfl
@[simp] theorem submitJob_eng (j : Job) : (submitJob j s).eng = s.eng := rfl
@[simp] theorem submitJob_chk (j : Job) : (submitJob j s).chk = s.chk := rfl
@[simp] theorem submitJob_bus (j : Job) : (submitJob j s).bus = s.bus := rfl
@[simp] theorem submitJob_flash (j : Job) : (submitJob j s).flash = s.flash := rfl

@[simp] theorem submitEvent_pending (d : List Byte) : (submitEvent d s).pending = s.pending := rfl
@[simp] theorem submitEvent_draws (d : List Byte) : (submitEvent d s).draws = s.draws := rfl
@[simp] theorem submitEvent_pins (d : List Byte) : (submitEvent d s).pins = s.pins := rfl
@[simp] theorem submitEvent_loader (d : List Byte) : (submitEvent d s).loader = s.loader := rfl
@[simp] theorem submitEvent_filter (d : List Byte) : (submitEvent d s).filter = s.filter := rfl
@[simp] theorem submitEvent_port (d : List Byte) : (submitEvent d s).port = s.port := rfl
@[simp] theorem submitEvent_mark (d : List Byte) : (submitEvent d s).mark = s.mark := rfl
@[simp] theorem submitEvent_exch (d : List Byte) : (submitEvent d s).exch = s.exch := rfl
@[simp] theorem submitEvent_eng (d : List Byte) : (submitEvent d s).eng = s.eng := rfl
@[simp] theorem submitEvent_chk (d : List Byte) : (submitEvent d s).chk = s.chk := rfl
@[simp] theorem submitEvent_bus (d : List Byte) : (submitEvent d s).bus = s.bus := rfl
@[simp] theorem submitEvent_flash (d : List Byte) : (submitEvent d s).flash = s.flash := rfl

@[simp] theorem setMount_pending (m : Mount) : (setMount m s).pending = s.pending := rfl
@[simp] theorem setMount_draws (m : Mount) : (setMount m s).draws = s.draws := rfl
@[simp] theorem setMount_pins (m : Mount) : (setMount m s).pins = s.pins := rfl
@[simp] theorem setMount_loader (m : Mount) : (setMount m s).loader = s.loader := rfl
@[simp] theorem setMount_filter (m : Mount) : (setMount m s).filter = s.filter := rfl
@[simp] theorem setMount_port (m : Mount) : (setMount m s).port = s.port := rfl
@[simp] theorem setMount_mark (m : Mount) : (setMount m s).mark = s.mark := rfl
@[simp] theorem setMount_exch (m : Mount) : (setMount m s).exch = s.exch := rfl
@[simp] theorem setMount_eng (m : Mount) : (setMount m s).eng = s.eng := rfl
@[simp] theorem setMount_chk (m : Mount) : (setMount m s).chk = s.chk := rfl
@[simp] theorem setMount_bus (m : Mount) : (setMount m s).bus = s.bus := rfl
@[simp] theorem setMount_flash (m : Mount) : (setMount m s).flash = s.flash := rfl
theorem setMount_arch (m : Mount) : (setMount m s).arch = { s.arch with mount := m } := rfl

@[simp] theorem setResume_pending (r : Resume) : (setResume r s).pending = s.pending := rfl
@[simp] theorem setResume_draws (r : Resume) : (setResume r s).draws = s.draws := rfl
@[simp] theorem setResume_pins (r : Resume) : (setResume r s).pins = s.pins := rfl
@[simp] theorem setResume_loader (r : Resume) : (setResume r s).loader = s.loader := rfl
@[simp] theorem setResume_filter (r : Resume) : (setResume r s).filter = s.filter := rfl
@[simp] theorem setResume_port (r : Resume) : (setResume r s).port = s.port := rfl
@[simp] theorem setResume_mark (r : Resume) : (setResume r s).mark = s.mark := rfl
@[simp] theorem setResume_exch (r : Resume) : (setResume r s).exch = s.exch := rfl
@[simp] theorem setResume_eng (r : Resume) : (setResume r s).eng = s.eng := rfl
@[simp] theorem setResume_chk (r : Resume) : (setResume r s).chk = s.chk := rfl
@[simp] theorem setResume_bus (r : Resume) : (setResume r s).bus = s.bus := rfl
@[simp] theorem setResume_flash (r : Resume) : (setResume r s).flash = s.flash := rfl
theorem setResume_arch (r : Resume) : (setResume r s).arch = { s.arch with resume := r } := rfl

@[simp] theorem setBus_pending (b : Bus) : (setBus b s).pending = s.pending := rfl
@[simp] theorem setBus_draws (b : Bus) : (setBus b s).draws = s.draws := rfl
@[simp] theorem setBus_pins (b : Bus) : (setBus b s).pins = s.pins := rfl
@[simp] theorem setBus_loader (b : Bus) : (setBus b s).loader = s.loader := rfl
@[simp] theorem setBus_filter (b : Bus) : (setBus b s).filter = s.filter := rfl
@[simp] theorem setBus_port (b : Bus) : (setBus b s).port = s.port := rfl
@[simp] theorem setBus_mark (b : Bus) : (setBus b s).mark = s.mark := rfl
@[simp] theorem setBus_exch (b : Bus) : (setBus b s).exch = s.exch := rfl
@[simp] theorem setBus_eng (b : Bus) : (setBus b s).eng = s.eng := rfl
@[simp] theorem setBus_chk (b : Bus) : (setBus b s).chk = s.chk := rfl
@[simp] theorem setBus_arch (b : Bus) : (setBus b s).arch = s.arch := rfl
@[simp] theorem setBus_flash (b : Bus) : (setBus b s).flash = s.flash := rfl
theorem setBus_bus (b : Bus) : (setBus b s).bus = b := rfl

@[simp] theorem submitFrame_pending (f : TxFrame) : (submitFrame f s).pending = s.pending := rfl
@[simp] theorem submitFrame_draws (f : TxFrame) : (submitFrame f s).draws = s.draws := rfl
@[simp] theorem submitFrame_pins (f : TxFrame) : (submitFrame f s).pins = s.pins := rfl
@[simp] theorem submitFrame_loader (f : TxFrame) : (submitFrame f s).loader = s.loader := rfl
@[simp] theorem submitFrame_filter (f : TxFrame) : (submitFrame f s).filter = s.filter := rfl
@[simp] theorem submitFrame_port (f : TxFrame) : (submitFrame f s).port = s.port := rfl
@[simp] theorem submitFrame_mark (f : TxFrame) : (submitFrame f s).mark = s.mark := rfl
@[simp] theorem submitFrame_exch (f : TxFrame) : (submitFrame f s).exch = s.exch := rfl
@[simp] theorem submitFrame_eng (f : TxFrame) : (submitFrame f s).eng = s.eng := rfl
@[simp] theorem submitFrame_chk (f : TxFrame) : (submitFrame f s).chk = s.chk := rfl
@[simp] theorem submitFrame_arch (f : TxFrame) : (submitFrame f s).arch = s.arch := rfl
@[simp] theorem submitFrame_flash (f : TxFrame) : (submitFrame f s).flash = s.flash := rfl
theorem submitFrame_bus (f : TxFrame) : (submitFrame f s).bus = s.bus.submit f := rfl

@[simp] theorem sendReply_pending (d k n : Nat) (o : Reply) (q : List Byte) :
    (sendReply d k o n q s).pending = s.pending := rfl
@[simp] theorem sendReply_draws (d k n : Nat) (o : Reply) (q : List Byte) :
    (sendReply d k o n q s).draws = s.draws := rfl
@[simp] theorem sendReply_pins (d k n : Nat) (o : Reply) (q : List Byte) :
    (sendReply d k o n q s).pins = s.pins := rfl
@[simp] theorem sendReply_loader (d k n : Nat) (o : Reply) (q : List Byte) :
    (sendReply d k o n q s).loader = s.loader := rfl
@[simp] theorem sendReply_filter (d k n : Nat) (o : Reply) (q : List Byte) :
    (sendReply d k o n q s).filter = s.filter := rfl
@[simp] theorem sendReply_port (d k n : Nat) (o : Reply) (q : List Byte) :
    (sendReply d k o n q s).port = s.port := rfl
@[simp] theorem sendReply_mark (d k n : Nat) (o : Reply) (q : List Byte) :
    (sendReply d k o n q s).mark = s.mark := rfl
@[simp] theorem sendReply_exch (d k n : Nat) (o : Reply) (q : List Byte) :
    (sendReply d k o n q s).exch = s.exch := rfl
@[simp] theorem sendReply_eng (d k n : Nat) (o : Reply) (q : List Byte) :
    (sendReply d k o n q s).eng = s.eng := rfl
@[simp] theorem sendReply_chk (d k n : Nat) (o : Reply) (q : List Byte) :
    (sendReply d k o n q s).chk = s.chk := rfl
@[simp] theorem sendReply_arch (d k n : Nat) (o : Reply) (q : List Byte) :
    (sendReply d k o n q s).arch = s.arch := rfl
@[simp] theorem sendReply_flash (d k n : Nat) (o : Reply) (q : List Byte) :
    (sendReply d k o n q s).flash = s.flash := rfl
theorem sendReply_bus (d k n : Nat) (o : Reply) (q : List Byte) :
    (sendReply d k o n q s).bus =
      s.bus.submit (buildFrame 16 d (replyPayload k o n q)) := rfl

@[simp] theorem answer_pending (k : Nat) (f : RxFrame) (o : Reply) :
    (answer k f o s).pending = s.pending := rfl
@[simp] theorem answer_draws (k : Nat) (f : RxFrame) (o : Reply) :
    (answer k f o s).draws = s.draws := rfl
@[simp] theorem answer_pins (k : Nat) (f : RxFrame) (o : Reply) :
    (answer k f o s).pins = s.pins := rfl
@[simp] theorem answer_loader (k : Nat) (f : RxFrame) (o : Reply) :
    (answer k f o s).loader = s.loader := rfl
@[simp] theorem answer_filter (k : Nat) (f : RxFrame) (o : Reply) :
    (answer k f o s).filter = s.filter := rfl
@[simp] theorem answer_port (k : Nat) (f : RxFrame) (o : Reply) :
    (answer k f o s).port = s.port := rfl
@[simp] theorem answer_mark (k : Nat) (f : RxFrame) (o : Reply) :
    (answer k f o s).mark = s.mark := rfl
@[simp] theorem answer_exch (k : Nat) (f : RxFrame) (o : Reply) :
    (answer k f o s).exch = s.exch := rfl
@[simp] theorem answer_eng (k : Nat) (f : RxFrame) (o : Reply) : (answer k f o s).eng = s.eng := rfl
@[simp] theorem answer_chk (k : Nat) (f : RxFrame) (o : Reply) : (answer k f o s).chk = s.chk := rfl
@[simp] theorem answer_arch (k : Nat) (f : RxFrame) (o : Reply) :
    (answer k f o s).arch = s.arch := rfl
@[simp] theorem answer_flash (k : Nat) (f : RxFrame) (o : Reply) :
    (answer k f o s).flash = s.flash := rfl
theorem answer_bus (k : Nat) (f : RxFrame) (o : Reply) :
    (answer k f o s).bus =
      s.bus.submit (buildFrame 16 f.source.toNat (replyPayload k o 0 f.payload)) := rfl

@[simp] theorem countBad_pending : (countBad s).pending = s.pending := rfl
@[simp] theorem countBad_draws : (countBad s).draws = s.draws := rfl
@[simp] theorem countBad_pins : (countBad s).pins = s.pins := rfl
@[simp] theorem countBad_loader : (countBad s).loader = s.loader := rfl
@[simp] theorem countBad_filter : (countBad s).filter = s.filter := rfl
@[simp] theorem countBad_port : (countBad s).port = s.port := rfl
@[simp] theorem countBad_mark : (countBad s).mark = s.mark := rfl
@[simp] theorem countBad_exch : (countBad s).exch = s.exch := rfl
@[simp] theorem countBad_eng : (countBad s).eng = s.eng := rfl
@[simp] theorem countBad_chk : (countBad s).chk = s.chk := rfl
@[simp] theorem countBad_arch : (countBad s).arch = s.arch := rfl
@[simp] theorem countBad_flash : (countBad s).flash = s.flash := rfl

@[simp] theorem setFilterTimer_pending (i : StatusInput) (t : Timer) :
    (setFilterTimer i t s).pending = s.pending := rfl
@[simp] theorem setFilterTimer_draws (i : StatusInput) (t : Timer) :
    (setFilterTimer i t s).draws = s.draws := rfl
@[simp] theorem setFilterTimer_pins (i : StatusInput) (t : Timer) :
    (setFilterTimer i t s).pins = s.pins := rfl
@[simp] theorem setFilterTimer_loader (i : StatusInput) (t : Timer) :
    (setFilterTimer i t s).loader = s.loader := rfl
@[simp] theorem setFilterTimer_port (i : StatusInput) (t : Timer) :
    (setFilterTimer i t s).port = s.port := rfl
@[simp] theorem setFilterTimer_mark (i : StatusInput) (t : Timer) :
    (setFilterTimer i t s).mark = s.mark := rfl
@[simp] theorem setFilterTimer_exch (i : StatusInput) (t : Timer) :
    (setFilterTimer i t s).exch = s.exch := rfl
@[simp] theorem setFilterTimer_eng (i : StatusInput) (t : Timer) :
    (setFilterTimer i t s).eng = s.eng := rfl
@[simp] theorem setFilterTimer_chk (i : StatusInput) (t : Timer) :
    (setFilterTimer i t s).chk = s.chk := rfl
@[simp] theorem setFilterTimer_arch (i : StatusInput) (t : Timer) :
    (setFilterTimer i t s).arch = s.arch := rfl
@[simp] theorem setFilterTimer_bus (i : StatusInput) (t : Timer) :
    (setFilterTimer i t s).bus = s.bus := rfl
@[simp] theorem setFilterTimer_flash (i : StatusInput) (t : Timer) :
    (setFilterTimer i t s).flash = s.flash := rfl

@[simp] theorem openMinute_pending (slot start : Nat) :
    (openMinute slot start s).pending = s.pending := rfl
@[simp] theorem openMinute_draws (slot start : Nat) :
    (openMinute slot start s).draws = s.draws := rfl
@[simp] theorem openMinute_pins (slot start : Nat) : (openMinute slot start s).pins = s.pins := rfl
@[simp] theorem openMinute_loader (slot start : Nat) :
    (openMinute slot start s).loader = s.loader := rfl
@[simp] theorem openMinute_filter (slot start : Nat) :
    (openMinute slot start s).filter = s.filter := rfl
@[simp] theorem openMinute_mark (slot start : Nat) : (openMinute slot start s).mark = s.mark := rfl
@[simp] theorem openMinute_exch (slot start : Nat) : (openMinute slot start s).exch = s.exch := rfl
@[simp] theorem openMinute_eng (slot start : Nat) : (openMinute slot start s).eng = s.eng := rfl
@[simp] theorem openMinute_chk (slot start : Nat) : (openMinute slot start s).chk = s.chk := rfl
@[simp] theorem openMinute_arch (slot start : Nat) : (openMinute slot start s).arch = s.arch := rfl
@[simp] theorem openMinute_bus (slot start : Nat) : (openMinute slot start s).bus = s.bus := rfl
@[simp] theorem openMinute_flash (slot start : Nat) :
    (openMinute slot start s).flash = s.flash := rfl

@[simp] theorem enterMeasure_pending (p : CheckPair) : (enterMeasure p s).pending = s.pending := rfl
@[simp] theorem enterMeasure_draws (p : CheckPair) : (enterMeasure p s).draws = s.draws := rfl
@[simp] theorem enterMeasure_pins (p : CheckPair) : (enterMeasure p s).pins = s.pins := rfl
@[simp] theorem enterMeasure_loader (p : CheckPair) : (enterMeasure p s).loader = s.loader := rfl
@[simp] theorem enterMeasure_filter (p : CheckPair) : (enterMeasure p s).filter = s.filter := rfl
@[simp] theorem enterMeasure_port (p : CheckPair) : (enterMeasure p s).port = s.port := rfl
@[simp] theorem enterMeasure_mark (p : CheckPair) : (enterMeasure p s).mark = s.mark := rfl
@[simp] theorem enterMeasure_exch (p : CheckPair) : (enterMeasure p s).exch = s.exch := rfl
@[simp] theorem enterMeasure_eng (p : CheckPair) : (enterMeasure p s).eng = s.eng := rfl
@[simp] theorem enterMeasure_arch (p : CheckPair) : (enterMeasure p s).arch = s.arch := rfl
@[simp] theorem enterMeasure_bus (p : CheckPair) : (enterMeasure p s).bus = s.bus := rfl
@[simp] theorem enterMeasure_flash (p : CheckPair) : (enterMeasure p s).flash = s.flash := rfl

@[simp] theorem enterPurge_pending (p : CheckPair) : (enterPurge p s).pending = s.pending := rfl
@[simp] theorem enterPurge_draws (p : CheckPair) : (enterPurge p s).draws = s.draws := rfl
@[simp] theorem enterPurge_pins (p : CheckPair) : (enterPurge p s).pins = s.pins := rfl
@[simp] theorem enterPurge_loader (p : CheckPair) : (enterPurge p s).loader = s.loader := rfl
@[simp] theorem enterPurge_filter (p : CheckPair) : (enterPurge p s).filter = s.filter := rfl
@[simp] theorem enterPurge_port (p : CheckPair) : (enterPurge p s).port = s.port := rfl
@[simp] theorem enterPurge_mark (p : CheckPair) : (enterPurge p s).mark = s.mark := rfl
@[simp] theorem enterPurge_exch (p : CheckPair) : (enterPurge p s).exch = s.exch := rfl
@[simp] theorem enterPurge_eng (p : CheckPair) : (enterPurge p s).eng = s.eng := rfl
@[simp] theorem enterPurge_arch (p : CheckPair) : (enterPurge p s).arch = s.arch := rfl
@[simp] theorem enterPurge_bus (p : CheckPair) : (enterPurge p s).bus = s.bus := rfl
@[simp] theorem enterPurge_flash (p : CheckPair) : (enterPurge p s).flash = s.flash := rfl

@[simp] theorem engineTake_pending (st : PlantState) (r : Eight (Option MinuteResult)) :
    (engineTake st r s).pending = s.pending := rfl
@[simp] theorem engineTake_draws (st : PlantState) (r : Eight (Option MinuteResult)) :
    (engineTake st r s).draws = s.draws := rfl
@[simp] theorem engineTake_pins (st : PlantState) (r : Eight (Option MinuteResult)) :
    (engineTake st r s).pins = s.pins := rfl
@[simp] theorem engineTake_loader (st : PlantState) (r : Eight (Option MinuteResult)) :
    (engineTake st r s).loader = s.loader := rfl
@[simp] theorem engineTake_filter (st : PlantState) (r : Eight (Option MinuteResult)) :
    (engineTake st r s).filter = s.filter := rfl
@[simp] theorem engineTake_port (st : PlantState) (r : Eight (Option MinuteResult)) :
    (engineTake st r s).port = s.port := rfl
@[simp] theorem engineTake_mark (st : PlantState) (r : Eight (Option MinuteResult)) :
    (engineTake st r s).mark = s.mark := rfl
@[simp] theorem engineTake_exch (st : PlantState) (r : Eight (Option MinuteResult)) :
    (engineTake st r s).exch = s.exch := rfl
@[simp] theorem engineTake_chk (st : PlantState) (r : Eight (Option MinuteResult)) :
    (engineTake st r s).chk = s.chk := rfl
@[simp] theorem engineTake_arch (st : PlantState) (r : Eight (Option MinuteResult)) :
    (engineTake st r s).arch = s.arch := rfl
@[simp] theorem engineTake_bus (st : PlantState) (r : Eight (Option MinuteResult)) :
    (engineTake st r s).bus = s.bus := rfl
@[simp] theorem engineTake_flash (st : PlantState) (r : Eight (Option MinuteResult)) :
    (engineTake st r s).flash = s.flash := rfl
theorem engineTake_eng (st : PlantState) (r : Eight (Option MinuteResult)) :
    (engineTake st r s).eng =
      { s.eng with acc := s.eng.acc.take s.cfg st r } := rfl

@[simp] theorem refuseTime_pending : (refuseTime s).pending = s.pending := rfl
@[simp] theorem refuseTime_draws : (refuseTime s).draws = s.draws := rfl
@[simp] theorem refuseTime_pins : (refuseTime s).pins = s.pins := rfl
@[simp] theorem refuseTime_loader : (refuseTime s).loader = s.loader := rfl
@[simp] theorem refuseTime_filter : (refuseTime s).filter = s.filter := rfl
@[simp] theorem refuseTime_port : (refuseTime s).port = s.port := rfl
@[simp] theorem refuseTime_exch : (refuseTime s).exch = s.exch := rfl
@[simp] theorem refuseTime_eng : (refuseTime s).eng = s.eng := rfl
@[simp] theorem refuseTime_chk : (refuseTime s).chk = s.chk := rfl
@[simp] theorem refuseTime_arch : (refuseTime s).arch = s.arch := rfl
@[simp] theorem refuseTime_bus : (refuseTime s).bus = s.bus := rfl
@[simp] theorem refuseTime_flash : (refuseTime s).flash = s.flash := rfl

@[simp] theorem refuseImage_pending (r : LoadRefusal) (j : Option Joined) :
    (refuseImage r j s).pending = s.pending := rfl
@[simp] theorem refuseImage_draws (r : LoadRefusal) (j : Option Joined) :
    (refuseImage r j s).draws = s.draws := rfl
@[simp] theorem refuseImage_pins (r : LoadRefusal) (j : Option Joined) :
    (refuseImage r j s).pins = s.pins := rfl
@[simp] theorem refuseImage_filter (r : LoadRefusal) (j : Option Joined) :
    (refuseImage r j s).filter = s.filter := rfl
@[simp] theorem refuseImage_port (r : LoadRefusal) (j : Option Joined) :
    (refuseImage r j s).port = s.port := rfl
@[simp] theorem refuseImage_exch (r : LoadRefusal) (j : Option Joined) :
    (refuseImage r j s).exch = s.exch := rfl
@[simp] theorem refuseImage_eng (r : LoadRefusal) (j : Option Joined) :
    (refuseImage r j s).eng = s.eng := rfl
@[simp] theorem refuseImage_chk (r : LoadRefusal) (j : Option Joined) :
    (refuseImage r j s).chk = s.chk := rfl
@[simp] theorem refuseImage_arch (r : LoadRefusal) (j : Option Joined) :
    (refuseImage r j s).arch = s.arch := rfl
@[simp] theorem refuseImage_flash (r : LoadRefusal) (j : Option Joined) :
    (refuseImage r j s).flash = s.flash := rfl

@[simp] theorem beginLoading_pending : (beginLoading s).pending = s.pending := rfl
@[simp] theorem beginLoading_draws : (beginLoading s).draws = s.draws := rfl
@[simp] theorem beginLoading_filter : (beginLoading s).filter = s.filter := rfl
@[simp] theorem beginLoading_port : (beginLoading s).port = s.port := rfl
@[simp] theorem beginLoading_mark : (beginLoading s).mark = s.mark := rfl
@[simp] theorem beginLoading_exch : (beginLoading s).exch = s.exch := rfl
@[simp] theorem beginLoading_eng : (beginLoading s).eng = s.eng := rfl
@[simp] theorem beginLoading_chk : (beginLoading s).chk = s.chk := rfl
@[simp] theorem beginLoading_arch : (beginLoading s).arch = s.arch := rfl
@[simp] theorem beginLoading_bus : (beginLoading s).bus = s.bus := rfl
@[simp] theorem beginLoading_flash : (beginLoading s).flash = s.flash := rfl
theorem beginLoading_loader : (beginLoading s).loader = { s.loader with phase := .header } := rfl

@[simp] theorem tick_pending : (tick s).pending = s.pending := rfl
@[simp] theorem tick_draws : (tick s).draws = s.draws := rfl
@[simp] theorem tick_pins : (tick s).pins = s.pins := rfl
@[simp] theorem tick_loader : (tick s).loader = s.loader := rfl
@[simp] theorem tick_port : (tick s).port = s.port := rfl
@[simp] theorem tick_eng : (tick s).eng = s.eng := rfl
@[simp] theorem tick_flash : (tick s).flash = s.flash := rfl
theorem tick_mark : (tick s).mark = s.mark.tick := rfl

/-! What the blocks read of each other stays where its block does. -/

@[simp] theorem cfg_pending (x : List Instr) :
    State.cfg { s with pending := x } = s.cfg := rfl
@[simp] theorem cfg_draws (x : Nat) :
    State.cfg { s with draws := x } = s.cfg := rfl
@[simp] theorem cfg_pins (x : Pins) :
    State.cfg { s with pins := x } = s.cfg := rfl
@[simp] theorem cfg_filter (x : Filter) :
    State.cfg { s with filter := x } = s.cfg := rfl
@[simp] theorem cfg_port (x : SamplePort) :
    State.cfg { s with port := x } = s.cfg := rfl
@[simp] theorem cfg_mark (x : MarkUnit) :
    State.cfg { s with mark := x } = s.cfg := rfl
@[simp] theorem cfg_exch (x : Exchange) :
    State.cfg { s with exch := x } = s.cfg := rfl
@[simp] theorem cfg_eng (x : Engine) :
    State.cfg { s with eng := x } = s.cfg := rfl
@[simp] theorem cfg_chk (x : CheckUnit) :
    State.cfg { s with chk := x } = s.cfg := rfl
@[simp] theorem cfg_arch (x : Archive) :
    State.cfg { s with arch := x } = s.cfg := rfl
@[simp] theorem cfg_bus (x : Bus) :
    State.cfg { s with bus := x } = s.cfg := rfl
@[simp] theorem cfg_flash (x : List Host.Cell) :
    State.cfg { s with flash := x } = s.cfg := rfl

@[simp] theorem number_pending (x : List Instr) :
    State.number { s with pending := x } = s.number := rfl
@[simp] theorem number_draws (x : Nat) :
    State.number { s with draws := x } = s.number := rfl
@[simp] theorem number_pins (x : Pins) :
    State.number { s with pins := x } = s.number := rfl
@[simp] theorem number_loader (x : Loader) :
    State.number { s with loader := x } = s.number := rfl
@[simp] theorem number_filter (x : Filter) :
    State.number { s with filter := x } = s.number := rfl
@[simp] theorem number_port (x : SamplePort) :
    State.number { s with port := x } = s.number := rfl
@[simp] theorem number_mark (x : MarkUnit) :
    State.number { s with mark := x } = s.number := rfl
@[simp] theorem number_exch (x : Exchange) :
    State.number { s with exch := x } = s.number := rfl
@[simp] theorem number_eng (x : Engine) :
    State.number { s with eng := x } = s.number := rfl
@[simp] theorem number_chk (x : CheckUnit) :
    State.number { s with chk := x } = s.number := rfl
@[simp] theorem number_arch (x : Archive) :
    State.number { s with arch := x } = s.number := rfl
@[simp] theorem number_flash (x : List Host.Cell) :
    State.number { s with flash := x } = s.number := rfl

@[simp] theorem clockValue_pending (x : List Instr) :
    State.clockValue { s with pending := x } = s.clockValue := rfl
@[simp] theorem clockValue_draws (x : Nat) :
    State.clockValue { s with draws := x } = s.clockValue := rfl
@[simp] theorem clockValue_pins (x : Pins) :
    State.clockValue { s with pins := x } = s.clockValue := rfl
@[simp] theorem clockValue_loader (x : Loader) :
    State.clockValue { s with loader := x } = s.clockValue := rfl
@[simp] theorem clockValue_filter (x : Filter) :
    State.clockValue { s with filter := x } = s.clockValue := rfl
@[simp] theorem clockValue_port (x : SamplePort) :
    State.clockValue { s with port := x } = s.clockValue := rfl
@[simp] theorem clockValue_exch (x : Exchange) :
    State.clockValue { s with exch := x } = s.clockValue := rfl
@[simp] theorem clockValue_eng (x : Engine) :
    State.clockValue { s with eng := x } = s.clockValue := rfl
@[simp] theorem clockValue_chk (x : CheckUnit) :
    State.clockValue { s with chk := x } = s.clockValue := rfl
@[simp] theorem clockValue_arch (x : Archive) :
    State.clockValue { s with arch := x } = s.clockValue := rfl
@[simp] theorem clockValue_bus (x : Bus) :
    State.clockValue { s with bus := x } = s.clockValue := rfl
@[simp] theorem clockValue_flash (x : List Host.Cell) :
    State.clockValue { s with flash := x } = s.clockValue := rfl

@[simp] theorem recording_pending (x : List Instr) :
    State.recording { s with pending := x } = s.recording := rfl
@[simp] theorem recording_draws (x : Nat) :
    State.recording { s with draws := x } = s.recording := rfl
@[simp] theorem recording_pins (x : Pins) :
    State.recording { s with pins := x } = s.recording := rfl
@[simp] theorem recording_filter (x : Filter) :
    State.recording { s with filter := x } = s.recording := rfl
@[simp] theorem recording_port (x : SamplePort) :
    State.recording { s with port := x } = s.recording := rfl
@[simp] theorem recording_mark (x : MarkUnit) :
    State.recording { s with mark := x } = s.recording := rfl
@[simp] theorem recording_exch (x : Exchange) :
    State.recording { s with exch := x } = s.recording := rfl
@[simp] theorem recording_eng (x : Engine) :
    State.recording { s with eng := x } = s.recording := rfl
@[simp] theorem recording_chk (x : CheckUnit) :
    State.recording { s with chk := x } = s.recording := rfl
@[simp] theorem recording_arch (x : Archive) :
    State.recording { s with arch := x } = s.recording := rfl
@[simp] theorem recording_bus (x : Bus) :
    State.recording { s with bus := x } = s.recording := rfl
@[simp] theorem recording_flash (x : List Host.Cell) :
    State.recording { s with flash := x } = s.recording := rfl

@[simp] theorem valve_pending (x : List Instr) :
    State.valve { s with pending := x } = s.valve := rfl
@[simp] theorem valve_draws (x : Nat) :
    State.valve { s with draws := x } = s.valve := rfl
@[simp] theorem valve_pins (x : Pins) :
    State.valve { s with pins := x } = s.valve := rfl
@[simp] theorem valve_loader (x : Loader) :
    State.valve { s with loader := x } = s.valve := rfl
@[simp] theorem valve_filter (x : Filter) :
    State.valve { s with filter := x } = s.valve := rfl
@[simp] theorem valve_port (x : SamplePort) :
    State.valve { s with port := x } = s.valve := rfl
@[simp] theorem valve_mark (x : MarkUnit) :
    State.valve { s with mark := x } = s.valve := rfl
@[simp] theorem valve_exch (x : Exchange) :
    State.valve { s with exch := x } = s.valve := rfl
@[simp] theorem valve_eng (x : Engine) :
    State.valve { s with eng := x } = s.valve := rfl
@[simp] theorem valve_arch (x : Archive) :
    State.valve { s with arch := x } = s.valve := rfl
@[simp] theorem valve_bus (x : Bus) :
    State.valve { s with bus := x } = s.valve := rfl
@[simp] theorem valve_flash (x : List Host.Cell) :
    State.valve { s with flash := x } = s.valve := rfl

@[simp] theorem underCheck_pending (x : List Instr) :
    State.underCheck { s with pending := x } = s.underCheck := rfl
@[simp] theorem underCheck_draws (x : Nat) :
    State.underCheck { s with draws := x } = s.underCheck := rfl
@[simp] theorem underCheck_pins (x : Pins) :
    State.underCheck { s with pins := x } = s.underCheck := rfl
@[simp] theorem underCheck_filter (x : Filter) :
    State.underCheck { s with filter := x } = s.underCheck := rfl
@[simp] theorem underCheck_port (x : SamplePort) :
    State.underCheck { s with port := x } = s.underCheck := rfl
@[simp] theorem underCheck_mark (x : MarkUnit) :
    State.underCheck { s with mark := x } = s.underCheck := rfl
@[simp] theorem underCheck_exch (x : Exchange) :
    State.underCheck { s with exch := x } = s.underCheck := rfl
@[simp] theorem underCheck_eng (x : Engine) :
    State.underCheck { s with eng := x } = s.underCheck := rfl
@[simp] theorem underCheck_arch (x : Archive) :
    State.underCheck { s with arch := x } = s.underCheck := rfl
@[simp] theorem underCheck_bus (x : Bus) :
    State.underCheck { s with bus := x } = s.underCheck := rfl
@[simp] theorem underCheck_flash (x : List Host.Cell) :
    State.underCheck { s with flash := x } = s.underCheck := rfl

theorem submitJob_arch (j : Job) :
    (submitJob j s).arch = selectWith s.mark.calendar s.number 64 (s.arch.enqueue j) := by
  rw [submitJob, select_arch, number_arch]

/-- Two states that agree block by block are equal. -/
theorem State.ext_fields {s t : State} (h1 : s.pending = t.pending) (h2 : s.draws = t.draws)
    (h3 : s.pins = t.pins) (h4 : s.loader = t.loader) (h5 : s.filter = t.filter)
    (h6 : s.port = t.port) (h7 : s.mark = t.mark) (h8 : s.exch = t.exch) (h9 : s.eng = t.eng)
    (h10 : s.chk = t.chk) (h11 : s.arch = t.arch) (h12 : s.bus = t.bus)
    (h13 : s.flash = t.flash) : s = t := by
  cases s; cases t; simp_all

theorem submitEvent_arch (d : List Byte) :
    (submitEvent d s).arch = selectWith s.mark.calendar s.number 64 (s.arch.enqueue (.event d)) :=
  submitJob_arch s _

end Sys2Proof.Machine
end

