-- ==== Sys2Proof/Laws/Frames.lean ====
section
/-! SUPPORT. What each shared operation leaves: for every operation one lemma over the fields of the
state that it does not write. -/

namespace Sys2Proof.Machine

@[simp] theorem cutFlash_frame (r : Bool) (s : State) :
    (cutFlash r s).pending = s.pending ∧ (cutFlash r s).pins = s.pins ∧
    (cutFlash r s).loader = s.loader ∧ (cutFlash r s).filter = s.filter ∧
    (cutFlash r s).port = s.port ∧ (cutFlash r s).mark = s.mark ∧ (cutFlash r s).exch = s.exch ∧
    (cutFlash r s).eng = s.eng ∧ (cutFlash r s).chk = s.chk ∧ (cutFlash r s).arch = s.arch ∧
    (cutFlash r s).bus = s.bus := by
  unfold cutFlash; split <;> simp

@[simp] theorem archiveFault_frame (s : State) :
    (archiveFault s).pending = s.pending ∧ (archiveFault s).pins = s.pins ∧
    (archiveFault s).loader = s.loader ∧ (archiveFault s).filter = s.filter ∧
    (archiveFault s).port = s.port ∧ (archiveFault s).mark = s.mark ∧
    (archiveFault s).exch = s.exch ∧ (archiveFault s).eng = s.eng ∧ (archiveFault s).chk = s.chk ∧
    (archiveFault s).bus = s.bus := by
  simp [archiveFault]

@[simp] theorem submitEvents_frame (l : List (List Byte)) (s : State) :
    (submitEvents l s).pending = s.pending ∧ (submitEvents l s).draws = s.draws ∧
    (submitEvents l s).pins = s.pins ∧ (submitEvents l s).loader = s.loader ∧
    (submitEvents l s).filter = s.filter ∧ (submitEvents l s).port = s.port ∧
    (submitEvents l s).mark = s.mark ∧ (submitEvents l s).exch = s.exch ∧
    (submitEvents l s).eng = s.eng ∧ (submitEvents l s).chk = s.chk ∧
    (submitEvents l s).bus = s.bus ∧ (submitEvents l s).flash = s.flash := by
  induction l generalizing s <;> simp_all [submitEvents]

@[simp] theorem submitJobs_frame (l : List Job) (s : State) :
    (submitJobs l s).pending = s.pending ∧ (submitJobs l s).draws = s.draws ∧
    (submitJobs l s).pins = s.pins ∧ (submitJobs l s).loader = s.loader ∧
    (submitJobs l s).filter = s.filter ∧ (submitJobs l s).port = s.port ∧
    (submitJobs l s).mark = s.mark ∧ (submitJobs l s).exch = s.exch ∧
    (submitJobs l s).eng = s.eng ∧ (submitJobs l s).chk = s.chk ∧ (submitJobs l s).bus = s.bus ∧
    (submitJobs l s).flash = s.flash := by
  induction l generalizing s <;> simp_all [submitJobs]

@[simp] theorem requestRead_frame (r : ReadReq) (s : State) :
    (requestRead r s).pending = s.pending ∧ (requestRead r s).draws = s.draws ∧
    (requestRead r s).pins = s.pins ∧ (requestRead r s).loader = s.loader ∧
    (requestRead r s).filter = s.filter ∧ (requestRead r s).port = s.port ∧
    (requestRead r s).mark = s.mark ∧ (requestRead r s).exch = s.exch ∧
    (requestRead r s).eng = s.eng ∧ (requestRead r s).chk = s.chk ∧
    (requestRead r s).bus = s.bus ∧ (requestRead r s).flash = s.flash := by
  unfold requestRead; dsimp only; split <;> (try split) <;> simp

@[simp] theorem markChecked_frame (p : Path) (s : State) :
    (markChecked p s).pending = s.pending ∧ (markChecked p s).draws = s.draws ∧
    (markChecked p s).pins = s.pins ∧ (markChecked p s).loader = s.loader ∧
    (markChecked p s).filter = s.filter ∧ (markChecked p s).mark = s.mark ∧
    (markChecked p s).exch = s.exch ∧ (markChecked p s).eng = s.eng ∧
    (markChecked p s).chk = s.chk ∧ (markChecked p s).arch = s.arch ∧
    (markChecked p s).bus = s.bus ∧ (markChecked p s).flash = s.flash := by
  unfold markChecked; split <;> simp

@[simp] theorem startCheck_frame (p : CheckPair) (s : State) :
    (startCheck p s).pending = s.pending ∧ (startCheck p s).draws = s.draws ∧
    (startCheck p s).pins = s.pins ∧ (startCheck p s).loader = s.loader ∧
    (startCheck p s).filter = s.filter ∧ (startCheck p s).mark = s.mark ∧
    (startCheck p s).exch = s.exch ∧ (startCheck p s).eng = s.eng ∧
    (startCheck p s).arch = s.arch ∧ (startCheck p s).bus = s.bus ∧
    (startCheck p s).flash = s.flash := by
  simp [startCheck]

@[simp] theorem startNext_frame (s : State) :
    (startNext s).pending = s.pending ∧ (startNext s).draws = s.draws ∧
    (startNext s).pins = s.pins ∧ (startNext s).loader = s.loader ∧
    (startNext s).filter = s.filter ∧ (startNext s).mark = s.mark ∧ (startNext s).exch = s.exch ∧
    (startNext s).eng = s.eng ∧ (startNext s).arch = s.arch ∧ (startNext s).bus = s.bus ∧
    (startNext s).flash = s.flash := by
  unfold startNext; split <;> simp

@[simp] theorem offerCheck_frame (p v : Nat) (s : State) :
    ((offerCheck p v s).2).pending = s.pending ∧ ((offerCheck p v s).2).draws = s.draws ∧
    ((offerCheck p v s).2).pins = s.pins ∧ ((offerCheck p v s).2).loader = s.loader ∧
    ((offerCheck p v s).2).filter = s.filter ∧ ((offerCheck p v s).2).mark = s.mark ∧
    ((offerCheck p v s).2).exch = s.exch ∧ ((offerCheck p v s).2).eng = s.eng ∧
    ((offerCheck p v s).2).arch = s.arch ∧ ((offerCheck p v s).2).bus = s.bus ∧
    ((offerCheck p v s).2).flash = s.flash := by
  unfold offerCheck; split <;> simp

@[simp] theorem endPurge_frame (s : State) :
    (endPurge s).pending = s.pending ∧ (endPurge s).draws = s.draws ∧ (endPurge s).pins = s.pins ∧
    (endPurge s).loader = s.loader ∧ (endPurge s).filter = s.filter ∧ (endPurge s).mark = s.mark ∧
    (endPurge s).exch = s.exch ∧ (endPurge s).eng = s.eng ∧ (endPurge s).arch = s.arch ∧
    (endPurge s).bus = s.bus ∧ (endPurge s).flash = s.flash := by
  simp [endPurge]

@[simp] theorem readyActive_frame (p : Path) (s : State) :
    (readyActive p s).pending = s.pending ∧ (readyActive p s).draws = s.draws ∧
    (readyActive p s).pins = s.pins ∧ (readyActive p s).loader = s.loader ∧
    (readyActive p s).filter = s.filter ∧ (readyActive p s).mark = s.mark ∧
    (readyActive p s).exch = s.exch ∧ (readyActive p s).eng = s.eng ∧
    (readyActive p s).arch = s.arch ∧ (readyActive p s).bus = s.bus ∧
    (readyActive p s).flash = s.flash := by
  unfold readyActive; split <;> (try split) <;> simp

@[simp] theorem setLevel_frame (i : StatusInput) (l : Bool) (s : State) :
    (setLevel i l s).pending = s.pending ∧ (setLevel i l s).draws = s.draws ∧
    (setLevel i l s).pins = s.pins ∧ (setLevel i l s).loader = s.loader ∧
    (setLevel i l s).mark = s.mark ∧ (setLevel i l s).exch = s.exch ∧
    (setLevel i l s).eng = s.eng ∧ (setLevel i l s).arch = s.arch ∧ (setLevel i l s).bus = s.bus ∧
    (setLevel i l s).flash = s.flash := by
  unfold setLevel; dsimp only; split <;> (try split) <;> simp

@[simp] theorem offerScheduled_frame (st : IStamp) (p : Path) (e : ScheduleEntry) (s : State) :
    (offerScheduled st p e s).pending = s.pending ∧ (offerScheduled st p e s).draws = s.draws ∧
    (offerScheduled st p e s).pins = s.pins ∧ (offerScheduled st p e s).loader = s.loader ∧
    (offerScheduled st p e s).filter = s.filter ∧ (offerScheduled st p e s).mark = s.mark ∧
    (offerScheduled st p e s).exch = s.exch ∧ (offerScheduled st p e s).eng = s.eng ∧
    (offerScheduled st p e s).bus = s.bus ∧ (offerScheduled st p e s).flash = s.flash := by
  have h := offerCheck_frame p.number e.code s
  unfold offerScheduled
  split
  · split <;> rename_i heq <;> rw [heq] at h <;> simp_all
  · simp

@[simp] theorem foldSchedule_frame (st : IStamp) (p : Path) (l : List ScheduleEntry) (s : State) :
    (l.foldl (fun s e => offerScheduled st p e s) s).pending = s.pending ∧
    (l.foldl (fun s e => offerScheduled st p e s) s).draws = s.draws ∧
    (l.foldl (fun s e => offerScheduled st p e s) s).pins = s.pins ∧
    (l.foldl (fun s e => offerScheduled st p e s) s).loader = s.loader ∧
    (l.foldl (fun s e => offerScheduled st p e s) s).filter = s.filter ∧
    (l.foldl (fun s e => offerScheduled st p e s) s).mark = s.mark ∧
    (l.foldl (fun s e => offerScheduled st p e s) s).exch = s.exch ∧
    (l.foldl (fun s e => offerScheduled st p e s) s).eng = s.eng ∧
    (l.foldl (fun s e => offerScheduled st p e s) s).bus = s.bus ∧
    (l.foldl (fun s e => offerScheduled st p e s) s).flash = s.flash := by
  induction l generalizing s <;> simp_all

@[simp] theorem testSchedules_frame (st : IStamp) (s : State) :
    (testSchedules st s).pending = s.pending ∧ (testSchedules st s).draws = s.draws ∧
    (testSchedules st s).pins = s.pins ∧ (testSchedules st s).loader = s.loader ∧
    (testSchedules st s).filter = s.filter ∧ (testSchedules st s).mark = s.mark ∧
    (testSchedules st s).exch = s.exch ∧ (testSchedules st s).eng = s.eng ∧
    (testSchedules st s).bus = s.bus ∧ (testSchedules st s).flash = s.flash := by
  simp [testSchedules]

@[simp] theorem measureChannel_frame (p : CheckPair) (c : Chan) (s : State) :
    (measureChannel p c s).pending = s.pending ∧ (measureChannel p c s).draws = s.draws ∧
    (measureChannel p c s).pins = s.pins ∧ (measureChannel p c s).loader = s.loader ∧
    (measureChannel p c s).filter = s.filter ∧ (measureChannel p c s).port = s.port ∧
    (measureChannel p c s).mark = s.mark ∧ (measureChannel p c s).exch = s.exch ∧
    (measureChannel p c s).eng = s.eng ∧ (measureChannel p c s).bus = s.bus ∧
    (measureChannel p c s).flash = s.flash := by
  unfold measureChannel; dsimp only; split <;> (try split) <;> (try split) <;> simp

@[simp] theorem foldMeasure_frame (p : CheckPair) (l : List Chan) (s : State) :
    (l.foldl (fun s c => measureChannel p c s) s).pending = s.pending ∧
    (l.foldl (fun s c => measureChannel p c s) s).draws = s.draws ∧
    (l.foldl (fun s c => measureChannel p c s) s).pins = s.pins ∧
    (l.foldl (fun s c => measureChannel p c s) s).loader = s.loader ∧
    (l.foldl (fun s c => measureChannel p c s) s).filter = s.filter ∧
    (l.foldl (fun s c => measureChannel p c s) s).port = s.port ∧
    (l.foldl (fun s c => measureChannel p c s) s).mark = s.mark ∧
    (l.foldl (fun s c => measureChannel p c s) s).exch = s.exch ∧
    (l.foldl (fun s c => measureChannel p c s) s).eng = s.eng ∧
    (l.foldl (fun s c => measureChannel p c s) s).bus = s.bus ∧
    (l.foldl (fun s c => measureChannel p c s) s).flash = s.flash := by
  induction l generalizing s <;> simp_all

@[simp] theorem applyDriftReset_frame (c : Chan) (s : State) :
    (applyDriftReset c s).pending = s.pending ∧ (applyDriftReset c s).draws = s.draws ∧
    (applyDriftReset c s).pins = s.pins ∧ (applyDriftReset c s).loader = s.loader ∧
    (applyDriftReset c s).filter = s.filter ∧ (applyDriftReset c s).port = s.port ∧
    (applyDriftReset c s).mark = s.mark ∧ (applyDriftReset c s).exch = s.exch ∧
    (applyDriftReset c s).eng = s.eng ∧ (applyDriftReset c s).bus = s.bus ∧
    (applyDriftReset c s).flash = s.flash := by
  simp [applyDriftReset]

@[simp] theorem closeYear_frame (l : Bool) (y : Nat) (s : State) :
    ((closeYear l y s).1).pending = s.pending ∧ ((closeYear l y s).1).draws = s.draws ∧
    ((closeYear l y s).1).pins = s.pins ∧ ((closeYear l y s).1).loader = s.loader ∧
    ((closeYear l y s).1).filter = s.filter ∧ ((closeYear l y s).1).port = s.port ∧
    ((closeYear l y s).1).mark = s.mark ∧ ((closeYear l y s).1).exch = s.exch ∧
    ((closeYear l y s).1).chk = s.chk ∧ ((closeYear l y s).1).bus = s.bus ∧
    ((closeYear l y s).1).flash = s.flash := by
  simp [closeYear]

@[simp] theorem closeHeldDay_frame (s : State) :
    (closeHeldDay s).pending = s.pending ∧ (closeHeldDay s).draws = s.draws ∧
    (closeHeldDay s).pins = s.pins ∧ (closeHeldDay s).loader = s.loader ∧
    (closeHeldDay s).filter = s.filter ∧ (closeHeldDay s).port = s.port ∧
    (closeHeldDay s).mark = s.mark ∧ (closeHeldDay s).exch = s.exch ∧
    (closeHeldDay s).chk = s.chk ∧ (closeHeldDay s).bus = s.bus ∧
    (closeHeldDay s).flash = s.flash := by
  unfold closeHeldDay; split <;> (try (dsimp only; split)) <;> simp

@[simp] theorem intervalEnd_frame (s : State) :
    (intervalEnd s).pending = s.pending ∧ (intervalEnd s).draws = s.draws ∧
    (intervalEnd s).pins = s.pins ∧ (intervalEnd s).loader = s.loader ∧
    (intervalEnd s).filter = s.filter ∧ (intervalEnd s).port = s.port ∧
    (intervalEnd s).mark = s.mark ∧ (intervalEnd s).exch = s.exch ∧ (intervalEnd s).chk = s.chk ∧
    (intervalEnd s).flash = s.flash := by
  unfold intervalEnd; split <;> (try (dsimp only; split)) <;> simp

@[simp] theorem publishMinute_frame (m : MStamp) (st : PlantState) (r : Eight
    (Option MinuteResult)) (s : State) :
    (publishMinute m st r s).pending = s.pending ∧ (publishMinute m st r s).draws = s.draws ∧
    (publishMinute m st r s).pins = s.pins ∧ (publishMinute m st r s).loader = s.loader ∧
    (publishMinute m st r s).filter = s.filter ∧ (publishMinute m st r s).port = s.port ∧
    (publishMinute m st r s).mark = s.mark ∧ (publishMinute m st r s).exch = s.exch ∧
    (publishMinute m st r s).eng = s.eng ∧ (publishMinute m st r s).chk = s.chk ∧
    (publishMinute m st r s).arch = s.arch ∧ (publishMinute m st r s).flash = s.flash := by
  unfold publishMinute; dsimp only; split <;> simp

@[simp] theorem resolveHead_frame (s : State) :
    (resolveHead s).pending = s.pending ∧ (resolveHead s).draws = s.draws ∧
    (resolveHead s).pins = s.pins ∧ (resolveHead s).loader = s.loader ∧
    (resolveHead s).filter = s.filter ∧ (resolveHead s).port = s.port ∧
    (resolveHead s).mark = s.mark ∧ (resolveHead s).chk = s.chk ∧
    (resolveHead s).flash = s.flash := by
  unfold resolveHead; split <;> (try (dsimp only; split)) <;> simp

@[simp] theorem settleWith_frame (n : Nat) (s : State) :
    (settleWith n s).pending = s.pending ∧ (settleWith n s).draws = s.draws ∧
    (settleWith n s).pins = s.pins ∧ (settleWith n s).loader = s.loader ∧
    (settleWith n s).filter = s.filter ∧ (settleWith n s).port = s.port ∧
    (settleWith n s).mark = s.mark ∧ (settleWith n s).chk = s.chk ∧
    (settleWith n s).flash = s.flash := by
  induction n generalizing s with
  | zero => simp [settleWith]
  | succ n ih =>
    unfold settleWith
    split
    · simp
    · split
      · simp [ih]
      · simp

@[simp] theorem settle_frame (s : State) :
    (settle s).pending = s.pending ∧ (settle s).draws = s.draws ∧ (settle s).pins = s.pins ∧
    (settle s).loader = s.loader ∧ (settle s).filter = s.filter ∧ (settle s).port = s.port ∧
    (settle s).mark = s.mark ∧ (settle s).chk = s.chk ∧ (settle s).flash = s.flash := by
  simp [settle]

@[simp] theorem forceHead_frame (s : State) :
    (forceHead s).pending = s.pending ∧ (forceHead s).draws = s.draws ∧
    (forceHead s).pins = s.pins ∧ (forceHead s).loader = s.loader ∧
    (forceHead s).filter = s.filter ∧ (forceHead s).port = s.port ∧ (forceHead s).mark = s.mark ∧
    (forceHead s).chk = s.chk ∧ (forceHead s).flash = s.flash := by
  unfold forceHead; split <;> simp

@[simp] theorem enterMinute_frame (m : MStamp) (st : PlantState) (r : Eight (Option MinuteResult))
    (l : Bool) (s : State) :
    (enterMinute m st r l s).pending = s.pending ∧ (enterMinute m st r l s).draws = s.draws ∧
    (enterMinute m st r l s).pins = s.pins ∧ (enterMinute m st r l s).loader = s.loader ∧
    (enterMinute m st r l s).filter = s.filter ∧ (enterMinute m st r l s).port = s.port ∧
    (enterMinute m st r l s).mark = s.mark ∧ (enterMinute m st r l s).chk = s.chk ∧
    (enterMinute m st r l s).flash = s.flash := by
  simp [enterMinute]

@[simp] theorem endWithoutMinute_frame (m : IStamp) (s : State) :
    (endWithoutMinute m s).pending = s.pending ∧ (endWithoutMinute m s).draws = s.draws ∧
    (endWithoutMinute m s).pins = s.pins ∧ (endWithoutMinute m s).loader = s.loader ∧
    (endWithoutMinute m s).filter = s.filter ∧ (endWithoutMinute m s).port = s.port ∧
    (endWithoutMinute m s).mark = s.mark ∧ (endWithoutMinute m s).chk = s.chk ∧
    (endWithoutMinute m s).flash = s.flash := by
  unfold endWithoutMinute; dsimp only; split <;> simp

@[simp] theorem takeValue_frame (p : Nat) (m : MStamp) (v : Option Int)
    (st : MinuteStatus) (s : State) :
    (takeValue p m v st s).pending = s.pending ∧ (takeValue p m v st s).draws = s.draws ∧
    (takeValue p m v st s).pins = s.pins ∧ (takeValue p m v st s).loader = s.loader ∧
    (takeValue p m v st s).filter = s.filter ∧ (takeValue p m v st s).port = s.port ∧
    (takeValue p m v st s).mark = s.mark ∧ (takeValue p m v st s).chk = s.chk ∧
    (takeValue p m v st s).flash = s.flash := by
  simp [takeValue]

@[simp] theorem takePlant_frame (m : MStamp) (st : PlantState) (s : State) :
    (takePlant m st s).pending = s.pending ∧ (takePlant m st s).draws = s.draws ∧
    (takePlant m st s).pins = s.pins ∧ (takePlant m st s).loader = s.loader ∧
    (takePlant m st s).filter = s.filter ∧ (takePlant m st s).port = s.port ∧
    (takePlant m st s).mark = s.mark ∧ (takePlant m st s).chk = s.chk ∧
    (takePlant m st s).flash = s.flash := by
  simp [takePlant]

@[simp] theorem takeEntry_frame (n : Nat) (m : MStamp) (s : State) (e : MinuteEntry) :
    (takeEntry n m s e).pending = s.pending ∧ (takeEntry n m s e).draws = s.draws ∧
    (takeEntry n m s e).pins = s.pins ∧ (takeEntry n m s e).loader = s.loader ∧
    (takeEntry n m s e).filter = s.filter ∧ (takeEntry n m s e).port = s.port ∧
    (takeEntry n m s e).mark = s.mark ∧ (takeEntry n m s e).chk = s.chk ∧
    (takeEntry n m s e).flash = s.flash := by
  unfold takeEntry; split <;> simp

@[simp] theorem foldEntries_frame (n : Nat) (m : MStamp) (l : List MinuteEntry) (s : State) :
    (l.foldl (takeEntry n m) s).pending = s.pending ∧
    (l.foldl (takeEntry n m) s).draws = s.draws ∧ (l.foldl (takeEntry n m) s).pins = s.pins ∧
    (l.foldl (takeEntry n m) s).loader = s.loader ∧
    (l.foldl (takeEntry n m) s).filter = s.filter ∧ (l.foldl (takeEntry n m) s).port = s.port ∧
    (l.foldl (takeEntry n m) s).mark = s.mark ∧ (l.foldl (takeEntry n m) s).chk = s.chk ∧
    (l.foldl (takeEntry n m) s).flash = s.flash := by
  induction l generalizing s <;> simp_all

@[simp] theorem takeMinute_frame (n : Nat) (m : MinuteMsg) (s : State) :
    (takeMinute n m s).pending = s.pending ∧ (takeMinute n m s).draws = s.draws ∧
    (takeMinute n m s).pins = s.pins ∧ (takeMinute n m s).loader = s.loader ∧
    (takeMinute n m s).filter = s.filter ∧ (takeMinute n m s).port = s.port ∧
    (takeMinute n m s).mark = s.mark ∧ (takeMinute n m s).chk = s.chk ∧
    (takeMinute n m s).flash = s.flash := by
  unfold takeMinute; dsimp only; split <;> simp

@[simp] theorem closeMinute_frame (m : IStamp) (n : Nat) (f l : Bool) (s : State) :
    (closeMinute m n f l s).pending = s.pending ∧ (closeMinute m n f l s).draws = s.draws ∧
    (closeMinute m n f l s).pins = s.pins ∧ (closeMinute m n f l s).loader = s.loader ∧
    (closeMinute m n f l s).filter = s.filter ∧ (closeMinute m n f l s).port = s.port ∧
    (closeMinute m n f l s).mark = s.mark ∧ (closeMinute m n f l s).chk = s.chk ∧
    (closeMinute m n f l s).flash = s.flash := by
  simp [closeMinute]

@[simp] theorem closeLastMinute_frame (m : IStamp) (n : Nat) (s : State) :
    (closeLastMinute m n s).pending = s.pending ∧ (closeLastMinute m n s).draws = s.draws ∧
    (closeLastMinute m n s).pins = s.pins ∧ (closeLastMinute m n s).loader = s.loader ∧
    (closeLastMinute m n s).filter = s.filter ∧ (closeLastMinute m n s).port = s.port ∧
    (closeLastMinute m n s).mark = s.mark ∧ (closeLastMinute m n s).chk = s.chk ∧
    (closeLastMinute m n s).flash = s.flash := by
  unfold closeLastMinute; split <;> (try split) <;> simp

@[simp] theorem boundaryMinute_frame (n : Nat) (s : State) :
    (boundaryMinute n s).pending = s.pending ∧ (boundaryMinute n s).draws = s.draws ∧
    (boundaryMinute n s).pins = s.pins ∧ (boundaryMinute n s).loader = s.loader ∧
    (boundaryMinute n s).filter = s.filter ∧ (boundaryMinute n s).mark = s.mark ∧
    (boundaryMinute n s).chk = s.chk ∧ (boundaryMinute n s).flash = s.flash := by
  unfold boundaryMinute; split <;> (try split) <;> simp

@[simp] theorem switchCalibration_frame (m : IStamp) (s : State) :
    (switchCalibration m s).pending = s.pending ∧ (switchCalibration m s).draws = s.draws ∧
    (switchCalibration m s).pins = s.pins ∧ (switchCalibration m s).loader = s.loader ∧
    (switchCalibration m s).filter = s.filter ∧ (switchCalibration m s).mark = s.mark ∧
    (switchCalibration m s).exch = s.exch ∧ (switchCalibration m s).eng = s.eng ∧
    (switchCalibration m s).chk = s.chk ∧ (switchCalibration m s).bus = s.bus ∧
    (switchCalibration m s).flash = s.flash := by
  unfold switchCalibration; dsimp only; split <;> simp

@[simp] theorem startInterval_frame (m : IStamp) (s : State) :
    (startInterval m s).pending = s.pending ∧ (startInterval m s).draws = s.draws ∧
    (startInterval m s).pins = s.pins ∧ (startInterval m s).loader = s.loader ∧
    (startInterval m s).filter = s.filter ∧ (startInterval m s).mark = s.mark ∧
    (startInterval m s).bus = s.bus ∧ (startInterval m s).flash = s.flash := by
  simp [startInterval]

@[simp] theorem closeRecorded_frame (c m : IStamp) (n : Notice) (s : State) :
    (closeRecorded c m n s).pending = s.pending ∧ (closeRecorded c m n s).draws = s.draws ∧
    (closeRecorded c m n s).pins = s.pins ∧ (closeRecorded c m n s).loader = s.loader ∧
    (closeRecorded c m n s).filter = s.filter ∧ (closeRecorded c m n s).mark = s.mark ∧
    (closeRecorded c m n s).flash = s.flash := by
  simp [closeRecorded]

@[simp] theorem closeAligning_frame (c m : IStamp) (s : State) :
    (closeAligning c m s).pending = s.pending ∧ (closeAligning c m s).draws = s.draws ∧
    (closeAligning c m s).pins = s.pins ∧ (closeAligning c m s).filter = s.filter ∧
    (closeAligning c m s).bus = s.bus ∧ (closeAligning c m s).flash = s.flash := by
  unfold closeAligning; dsimp only; split <;> simp

@[simp] theorem closeInterval_frame (k : CloseKind) (o : Int) (n : Nat) (s : State) :
    (closeInterval k o n s).pending = s.pending ∧ (closeInterval k o n s).draws = s.draws ∧
    (closeInterval k o n s).pins = s.pins ∧ (closeInterval k o n s).filter = s.filter ∧
    (closeInterval k o n s).flash = s.flash := by
  unfold closeInterval; split <;> (try (dsimp only; split)) <;> simp

@[simp] theorem endFetch_frame (o : Reply) (ft : FetchState) (s : State) :
    (endFetch o ft s).pending = s.pending ∧ (endFetch o ft s).draws = s.draws ∧
    (endFetch o ft s).pins = s.pins ∧ (endFetch o ft s).loader = s.loader ∧
    (endFetch o ft s).filter = s.filter ∧ (endFetch o ft s).port = s.port ∧
    (endFetch o ft s).mark = s.mark ∧ (endFetch o ft s).exch = s.exch ∧
    (endFetch o ft s).eng = s.eng ∧ (endFetch o ft s).chk = s.chk ∧
    (endFetch o ft s).flash = s.flash := by
  simp [endFetch]

@[simp] theorem advanceFetch_frame (s : State) :
    (advanceFetch s).pending = s.pending ∧ (advanceFetch s).draws = s.draws ∧
    (advanceFetch s).pins = s.pins ∧ (advanceFetch s).loader = s.loader ∧
    (advanceFetch s).filter = s.filter ∧ (advanceFetch s).port = s.port ∧
    (advanceFetch s).mark = s.mark ∧ (advanceFetch s).exch = s.exch ∧
    (advanceFetch s).eng = s.eng ∧ (advanceFetch s).chk = s.chk ∧
    (advanceFetch s).flash = s.flash := by
  unfold advanceFetch; split <;> (try split) <;> (try split) <;> (try split) <;> simp

@[simp] theorem fetchReadDone_frame (b : List Byte) (s : State) :
    (fetchReadDone b s).pending = s.pending ∧ (fetchReadDone b s).draws = s.draws ∧
    (fetchReadDone b s).pins = s.pins ∧ (fetchReadDone b s).loader = s.loader ∧
    (fetchReadDone b s).filter = s.filter ∧ (fetchReadDone b s).port = s.port ∧
    (fetchReadDone b s).mark = s.mark ∧ (fetchReadDone b s).exch = s.exch ∧
    (fetchReadDone b s).eng = s.eng ∧ (fetchReadDone b s).chk = s.chk ∧
    (fetchReadDone b s).flash = s.flash := by
  unfold fetchReadDone; split <;> (try (dsimp only; split)) <;> simp

@[simp] theorem handleFetch_frame (f : RxFrame) (s : State) :
    (handleFetch f s).pending = s.pending ∧ (handleFetch f s).draws = s.draws ∧
    (handleFetch f s).pins = s.pins ∧ (handleFetch f s).loader = s.loader ∧
    (handleFetch f s).filter = s.filter ∧ (handleFetch f s).port = s.port ∧
    (handleFetch f s).mark = s.mark ∧ (handleFetch f s).exch = s.exch ∧
    (handleFetch f s).eng = s.eng ∧ (handleFetch f s).chk = s.chk ∧
    (handleFetch f s).flash = s.flash := by
  unfold handleFetch; dsimp only; split <;> simp

@[simp] theorem handleRelease_frame (f : RxFrame) (s : State) :
    (handleRelease f s).pending = s.pending ∧ (handleRelease f s).draws = s.draws ∧
    (handleRelease f s).pins = s.pins ∧ (handleRelease f s).loader = s.loader ∧
    (handleRelease f s).filter = s.filter ∧ (handleRelease f s).port = s.port ∧
    (handleRelease f s).mark = s.mark ∧ (handleRelease f s).exch = s.exch ∧
    (handleRelease f s).eng = s.eng ∧ (handleRelease f s).chk = s.chk ∧
    (handleRelease f s).flash = s.flash := by
  unfold handleRelease; dsimp only; split <;> simp

@[simp] theorem handleCheck_frame (f : RxFrame) (s : State) :
    (handleCheck f s).pending = s.pending ∧ (handleCheck f s).draws = s.draws ∧
    (handleCheck f s).pins = s.pins ∧ (handleCheck f s).loader = s.loader ∧
    (handleCheck f s).filter = s.filter ∧ (handleCheck f s).mark = s.mark ∧
    (handleCheck f s).exch = s.exch ∧ (handleCheck f s).eng = s.eng ∧
    (handleCheck f s).arch = s.arch ∧ (handleCheck f s).flash = s.flash := by
  simp [handleCheck]

@[simp] theorem handleDriftReset_frame (f : RxFrame) (s : State) :
    (handleDriftReset f s).pending = s.pending ∧ (handleDriftReset f s).draws = s.draws ∧
    (handleDriftReset f s).pins = s.pins ∧ (handleDriftReset f s).loader = s.loader ∧
    (handleDriftReset f s).filter = s.filter ∧ (handleDriftReset f s).port = s.port ∧
    (handleDriftReset f s).mark = s.mark ∧ (handleDriftReset f s).exch = s.exch ∧
    (handleDriftReset f s).eng = s.eng ∧ (handleDriftReset f s).flash = s.flash := by
  unfold handleDriftReset; dsimp only; split <;> simp

@[simp] theorem handleRestart_frame (f : RxFrame) (s : State) :
    (handleRestart f s).pending = s.pending ∧ (handleRestart f s).draws = s.draws ∧
    (handleRestart f s).pins = s.pins ∧ (handleRestart f s).loader = s.loader ∧
    (handleRestart f s).filter = s.filter ∧ (handleRestart f s).port = s.port ∧
    (handleRestart f s).mark = s.mark ∧ (handleRestart f s).exch = s.exch ∧
    (handleRestart f s).eng = s.eng ∧ (handleRestart f s).chk = s.chk ∧
    (handleRestart f s).arch = s.arch ∧ (handleRestart f s).flash = s.flash := by
  unfold handleRestart; dsimp only; split <;> simp

@[simp] theorem haltBehind_frame (y : Option Nat) (b : List Byte) (s : State) :
    (haltBehind y b s).pending = s.pending ∧ (haltBehind y b s).draws = s.draws ∧
    (haltBehind y b s).pins = s.pins ∧ (haltBehind y b s).filter = s.filter ∧
    (haltBehind y b s).port = s.port ∧ (haltBehind y b s).exch = s.exch ∧
    (haltBehind y b s).chk = s.chk ∧ (haltBehind y b s).bus = s.bus ∧
    (haltBehind y b s).flash = s.flash := by
  simp [haltBehind]

@[simp] theorem finishResume_frame (s : State) :
    (finishResume s).pending = s.pending ∧ (finishResume s).draws = s.draws ∧
    (finishResume s).pins = s.pins ∧ (finishResume s).filter = s.filter ∧
    (finishResume s).port = s.port ∧ (finishResume s).mark = s.mark ∧
    (finishResume s).exch = s.exch ∧ (finishResume s).chk = s.chk ∧ (finishResume s).bus = s.bus ∧
    (finishResume s).flash = s.flash := by
  simp [finishResume]

@[simp] theorem resumeRead_frame (a : Area) (n : Nat) (s : State) :
    (resumeRead a n s).pending = s.pending ∧ (resumeRead a n s).draws = s.draws ∧
    (resumeRead a n s).pins = s.pins ∧ (resumeRead a n s).loader = s.loader ∧
    (resumeRead a n s).filter = s.filter ∧ (resumeRead a n s).port = s.port ∧
    (resumeRead a n s).mark = s.mark ∧ (resumeRead a n s).exch = s.exch ∧
    (resumeRead a n s).eng = s.eng ∧ (resumeRead a n s).chk = s.chk ∧
    (resumeRead a n s).bus = s.bus ∧ (resumeRead a n s).flash = s.flash := by
  simp [resumeRead]

@[simp] theorem settleDay_frame (d : Day) (s : State) :
    (settleDay d s).pending = s.pending ∧ (settleDay d s).draws = s.draws ∧
    (settleDay d s).pins = s.pins ∧ (settleDay d s).loader = s.loader ∧
    (settleDay d s).filter = s.filter ∧ (settleDay d s).port = s.port ∧
    (settleDay d s).mark = s.mark ∧ (settleDay d s).exch = s.exch ∧ (settleDay d s).chk = s.chk ∧
    (settleDay d s).bus = s.bus ∧ (settleDay d s).flash = s.flash := by
  unfold settleDay; split <;> (try split) <;> simp

@[simp] theorem drainJobs_frame (l : List Job) (s : State) :
    ((drainJobs l s).2).pending = s.pending ∧ ((drainJobs l s).2).draws = s.draws ∧
    ((drainJobs l s).2).pins = s.pins ∧ ((drainJobs l s).2).loader = s.loader ∧
    ((drainJobs l s).2).filter = s.filter ∧ ((drainJobs l s).2).port = s.port ∧
    ((drainJobs l s).2).mark = s.mark ∧ ((drainJobs l s).2).exch = s.exch ∧
    ((drainJobs l s).2).eng = s.eng ∧ ((drainJobs l s).2).chk = s.chk ∧
    ((drainJobs l s).2).bus = s.bus ∧ ((drainJobs l s).2).flash = s.flash := by
  induction l generalizing s with
  | nil => simp [drainJobs]
  | cons j l ih => unfold drainJobs; split <;> simp [ih]

@[simp] theorem pumpWith_frame (n : Nat) (s : State) :
    (pumpWith n s).pending = s.pending ∧ (pumpWith n s).draws = s.draws ∧
    (pumpWith n s).pins = s.pins ∧ (pumpWith n s).filter = s.filter ∧
    (pumpWith n s).port = s.port ∧ (pumpWith n s).mark = s.mark ∧ (pumpWith n s).exch = s.exch ∧
    (pumpWith n s).chk = s.chk ∧ (pumpWith n s).bus = s.bus ∧ (pumpWith n s).flash = s.flash := by
  induction n generalizing s with
  | zero => simp [pumpWith]
  | succ n ih =>
    unfold pumpWith
    split
    · dsimp only
      split
      · split
        · simp [ih]
        · simp
      · simp
    · simp

@[simp] theorem pump_frame (s : State) :
    (pump s).pending = s.pending ∧ (pump s).draws = s.draws ∧ (pump s).pins = s.pins ∧
    (pump s).filter = s.filter ∧ (pump s).port = s.port ∧ (pump s).mark = s.mark ∧
    (pump s).exch = s.exch ∧ (pump s).chk = s.chk ∧ (pump s).bus = s.bus ∧
    (pump s).flash = s.flash := by
  simp [pump]

@[simp] theorem dayRead_frame (d : Day) (s : State) :
    (dayRead d s).pending = s.pending ∧ (dayRead d s).draws = s.draws ∧
    (dayRead d s).pins = s.pins ∧ (dayRead d s).filter = s.filter ∧ (dayRead d s).port = s.port ∧
    (dayRead d s).mark = s.mark ∧ (dayRead d s).exch = s.exch ∧ (dayRead d s).chk = s.chk ∧
    (dayRead d s).bus = s.bus ∧ (dayRead d s).flash = s.flash := by
  unfold dayRead; split <;> simp

@[simp] theorem beginSettle_frame (n : Bool) (s : State) :
    (beginSettle n s).pending = s.pending ∧ (beginSettle n s).draws = s.draws ∧
    (beginSettle n s).pins = s.pins ∧ (beginSettle n s).filter = s.filter ∧
    (beginSettle n s).port = s.port ∧ (beginSettle n s).mark = s.mark ∧
    (beginSettle n s).exch = s.exch ∧ (beginSettle n s).chk = s.chk ∧
    (beginSettle n s).bus = s.bus ∧ (beginSettle n s).flash = s.flash := by
  unfold beginSettle; split <;> (try (dsimp only; split)) <;> simp

@[simp] theorem resumeOpen_frame (i : Area) (e : AreaEntry) (m : IStamp) (s : State) :
    (resumeOpen i e m s).pending = s.pending ∧ (resumeOpen i e m s).draws = s.draws ∧
    (resumeOpen i e m s).pins = s.pins ∧ (resumeOpen i e m s).filter = s.filter ∧
    (resumeOpen i e m s).port = s.port ∧ (resumeOpen i e m s).exch = s.exch ∧
    (resumeOpen i e m s).chk = s.chk ∧ (resumeOpen i e m s).bus = s.bus ∧
    (resumeOpen i e m s).flash = s.flash := by
  unfold resumeOpen; dsimp only
  split <;> (try split) <;> (try split) <;> (try split) <;> (try split) <;> simp

@[simp] theorem resumeClosed_frame (t : Areas AreaEntry) (m : IStamp) (s : State) :
    (resumeClosed t m s).pending = s.pending ∧ (resumeClosed t m s).draws = s.draws ∧
    (resumeClosed t m s).pins = s.pins ∧ (resumeClosed t m s).filter = s.filter ∧
    (resumeClosed t m s).port = s.port ∧ (resumeClosed t m s).exch = s.exch ∧
    (resumeClosed t m s).chk = s.chk ∧ (resumeClosed t m s).bus = s.bus ∧
    (resumeClosed t m s).flash = s.flash := by
  unfold resumeClosed; dsimp only; split <;> (try split) <;> simp

@[simp] theorem beginResume_frame (s : State) :
    (beginResume s).pending = s.pending ∧ (beginResume s).draws = s.draws ∧
    (beginResume s).pins = s.pins ∧ (beginResume s).filter = s.filter ∧
    (beginResume s).port = s.port ∧ (beginResume s).exch = s.exch ∧ (beginResume s).chk = s.chk ∧
    (beginResume s).bus = s.bus ∧ (beginResume s).flash = s.flash := by
  unfold beginResume; dsimp only; split <;> simp

@[simp] theorem takeStored_frame (b : List Byte) (s : State) :
    (takeStored b s).pending = s.pending ∧ (takeStored b s).draws = s.draws ∧
    (takeStored b s).pins = s.pins ∧ (takeStored b s).loader = s.loader ∧
    (takeStored b s).filter = s.filter ∧ (takeStored b s).port = s.port ∧
    (takeStored b s).mark = s.mark ∧ (takeStored b s).exch = s.exch ∧
    (takeStored b s).chk = s.chk ∧ (takeStored b s).arch = s.arch ∧ (takeStored b s).bus = s.bus ∧
    (takeStored b s).flash = s.flash := by
  unfold takeStored; split <;> simp

@[simp] theorem resumeReadDone_frame (b : List Byte) (s : State) :
    (resumeReadDone b s).pending = s.pending ∧ (resumeReadDone b s).draws = s.draws ∧
    (resumeReadDone b s).pins = s.pins ∧ (resumeReadDone b s).filter = s.filter ∧
    (resumeReadDone b s).port = s.port ∧ (resumeReadDone b s).exch = s.exch ∧
    (resumeReadDone b s).chk = s.chk ∧ (resumeReadDone b s).bus = s.bus ∧
    (resumeReadDone b s).flash = s.flash := by
  unfold resumeReadDone; dsimp only
  split
  · split <;> (try split) <;> (try split) <;> simp
  · simp

@[simp] theorem adopt_frame (m : IStamp) (n : Nat) (s : State) :
    (adopt m n s).pending = s.pending ∧ (adopt m n s).draws = s.draws ∧
    (adopt m n s).pins = s.pins ∧ (adopt m n s).filter = s.filter ∧ (adopt m n s).port = s.port ∧
    (adopt m n s).exch = s.exch ∧ (adopt m n s).chk = s.chk ∧ (adopt m n s).bus = s.bus ∧
    (adopt m n s).flash = s.flash := by
  simp [adopt]

@[simp] theorem disagree_frame (k n : Nat) (m : IStamp) (s : State) :
    (disagree k n m s).pending = s.pending ∧ (disagree k n m s).draws = s.draws ∧
    (disagree k n m s).pins = s.pins ∧ (disagree k n m s).loader = s.loader ∧
    (disagree k n m s).filter = s.filter ∧ (disagree k n m s).port = s.port ∧
    (disagree k n m s).exch = s.exch ∧ (disagree k n m s).eng = s.eng ∧
    (disagree k n m s).chk = s.chk ∧ (disagree k n m s).bus = s.bus ∧
    (disagree k n m s).flash = s.flash := by
  unfold disagree; dsimp only; split <;> simp

@[simp] theorem handleTime_frame (f : RxFrame) (s : State) :
    (handleTime f s).pending = s.pending ∧ (handleTime f s).draws = s.draws ∧
    (handleTime f s).pins = s.pins ∧ (handleTime f s).filter = s.filter ∧
    (handleTime f s).port = s.port ∧ (handleTime f s).exch = s.exch ∧
    (handleTime f s).chk = s.chk ∧ (handleTime f s).bus = s.bus ∧
    (handleTime f s).flash = s.flash := by
  unfold handleTime; dsimp only
  split <;> (try split) <;> (try split) <;> (try split) <;> (try split) <;> simp

@[simp] theorem handleSummary_frame (f : RxFrame) (s : State) :
    (handleSummary f s).pending = s.pending ∧ (handleSummary f s).draws = s.draws ∧
    (handleSummary f s).pins = s.pins ∧ (handleSummary f s).filter = s.filter ∧
    (handleSummary f s).port = s.port ∧ (handleSummary f s).exch = s.exch ∧
    (handleSummary f s).chk = s.chk ∧ (handleSummary f s).bus = s.bus ∧
    (handleSummary f s).flash = s.flash := by
  unfold handleSummary; dsimp only
  split <;> (try split) <;> (try split) <;> (try split) <;> (try split) <;> simp

@[simp] theorem completeMount_frame (s : State) :
    (completeMount s).pending = s.pending ∧ (completeMount s).draws = s.draws ∧
    (completeMount s).pins = s.pins ∧ (completeMount s).filter = s.filter ∧
    (completeMount s).port = s.port ∧ (completeMount s).mark = s.mark ∧
    (completeMount s).exch = s.exch ∧ (completeMount s).eng = s.eng ∧
    (completeMount s).chk = s.chk ∧ (completeMount s).bus = s.bus ∧
    (completeMount s).flash = s.flash := by
  simp [completeMount]

@[simp] theorem beginMount_frame (s : State) :
    (beginMount s).pending = s.pending ∧ (beginMount s).draws = s.draws ∧
    (beginMount s).pins = s.pins ∧ (beginMount s).loader = s.loader ∧
    (beginMount s).filter = s.filter ∧ (beginMount s).port = s.port ∧
    (beginMount s).mark = s.mark ∧ (beginMount s).exch = s.exch ∧ (beginMount s).eng = s.eng ∧
    (beginMount s).chk = s.chk ∧ (beginMount s).bus = s.bus ∧ (beginMount s).flash = s.flash := by
  simp [beginMount]

@[simp] theorem mountRead_frame (a : Area) (k : RecordKind) (n : Nat) (s : State) :
    (mountRead a k n s).pending = s.pending ∧ (mountRead a k n s).draws = s.draws ∧
    (mountRead a k n s).pins = s.pins ∧ (mountRead a k n s).loader = s.loader ∧
    (mountRead a k n s).filter = s.filter ∧ (mountRead a k n s).port = s.port ∧
    (mountRead a k n s).mark = s.mark ∧ (mountRead a k n s).exch = s.exch ∧
    (mountRead a k n s).eng = s.eng ∧ (mountRead a k n s).chk = s.chk ∧
    (mountRead a k n s).bus = s.bus ∧ (mountRead a k n s).flash = s.flash := by
  simp [mountRead]

@[simp] theorem beginDays_frame (a : Area) (s : State) :
    (beginDays a s).pending = s.pending ∧ (beginDays a s).draws = s.draws ∧
    (beginDays a s).pins = s.pins ∧ (beginDays a s).loader = s.loader ∧
    (beginDays a s).filter = s.filter ∧ (beginDays a s).port = s.port ∧
    (beginDays a s).mark = s.mark ∧ (beginDays a s).exch = s.exch ∧ (beginDays a s).eng = s.eng ∧
    (beginDays a s).chk = s.chk ∧ (beginDays a s).bus = s.bus ∧
    (beginDays a s).flash = s.flash := by
  simp [beginDays]

@[simp] theorem searchEvents_frame (a : Area) (l h : Nat) (s : State) :
    (searchEvents a l h s).pending = s.pending ∧ (searchEvents a l h s).draws = s.draws ∧
    (searchEvents a l h s).pins = s.pins ∧ (searchEvents a l h s).loader = s.loader ∧
    (searchEvents a l h s).filter = s.filter ∧ (searchEvents a l h s).port = s.port ∧
    (searchEvents a l h s).mark = s.mark ∧ (searchEvents a l h s).exch = s.exch ∧
    (searchEvents a l h s).eng = s.eng ∧ (searchEvents a l h s).chk = s.chk ∧
    (searchEvents a l h s).bus = s.bus ∧ (searchEvents a l h s).flash = s.flash := by
  unfold searchEvents; split <;> simp

@[simp] theorem beginSearch_frame (s : State) :
    (beginSearch s).pending = s.pending ∧ (beginSearch s).draws = s.draws ∧
    (beginSearch s).pins = s.pins ∧ (beginSearch s).filter = s.filter ∧
    (beginSearch s).port = s.port ∧ (beginSearch s).mark = s.mark ∧
    (beginSearch s).exch = s.exch ∧ (beginSearch s).eng = s.eng ∧ (beginSearch s).chk = s.chk ∧
    (beginSearch s).bus = s.bus ∧ (beginSearch s).flash = s.flash := by
  unfold beginSearch; split <;> simp

@[simp] theorem closeExtra_frame (l : List Area) (s : State) :
    (closeExtra l s).pending = s.pending ∧ (closeExtra l s).draws = s.draws ∧
    (closeExtra l s).pins = s.pins ∧ (closeExtra l s).filter = s.filter ∧
    (closeExtra l s).port = s.port ∧ (closeExtra l s).mark = s.mark ∧
    (closeExtra l s).exch = s.exch ∧ (closeExtra l s).eng = s.eng ∧ (closeExtra l s).chk = s.chk ∧
    (closeExtra l s).bus = s.bus ∧ (closeExtra l s).flash = s.flash := by
  unfold closeExtra; split <;> simp

@[simp] theorem extraClosed_frame (a : Area) (s : State) :
    (extraClosed a s).pending = s.pending ∧ (extraClosed a s).draws = s.draws ∧
    (extraClosed a s).pins = s.pins ∧ (extraClosed a s).filter = s.filter ∧
    (extraClosed a s).port = s.port ∧ (extraClosed a s).mark = s.mark ∧
    (extraClosed a s).exch = s.exch ∧ (extraClosed a s).eng = s.eng ∧
    (extraClosed a s).chk = s.chk ∧ (extraClosed a s).bus = s.bus ∧
    (extraClosed a s).flash = s.flash := by
  unfold extraClosed; split <;> simp

@[simp] theorem extraFailed_frame (s : State) :
    (extraFailed s).pending = s.pending ∧ (extraFailed s).draws = s.draws ∧
    (extraFailed s).pins = s.pins ∧ (extraFailed s).filter = s.filter ∧
    (extraFailed s).port = s.port ∧ (extraFailed s).mark = s.mark ∧
    (extraFailed s).exch = s.exch ∧ (extraFailed s).eng = s.eng ∧ (extraFailed s).chk = s.chk ∧
    (extraFailed s).bus = s.bus ∧ (extraFailed s).flash = s.flash := by
  unfold extraFailed; split <;> simp

@[simp] theorem mountReadDone_frame (r : ReadReq) (s : State) :
    (mountReadDone r s).pending = s.pending ∧ (mountReadDone r s).draws = s.draws ∧
    (mountReadDone r s).pins = s.pins ∧ (mountReadDone r s).filter = s.filter ∧
    (mountReadDone r s).port = s.port ∧ (mountReadDone r s).mark = s.mark ∧
    (mountReadDone r s).exch = s.exch ∧ (mountReadDone r s).eng = s.eng ∧
    (mountReadDone r s).chk = s.chk ∧ (mountReadDone r s).bus = s.bus ∧
    (mountReadDone r s).flash = s.flash := by
  unfold mountReadDone; dsimp only
  split
  · split <;> simp
  · split <;> (try split) <;> simp
  · split <;> (try split) <;> (try split) <;> simp
  · simp

@[simp] theorem takeDuplicate_frame (k : Byte) (f : RxFrame) (s : State) :
    (takeDuplicate k f s).pending = s.pending ∧ (takeDuplicate k f s).draws = s.draws ∧
    (takeDuplicate k f s).pins = s.pins ∧ (takeDuplicate k f s).loader = s.loader ∧
    (takeDuplicate k f s).filter = s.filter ∧ (takeDuplicate k f s).port = s.port ∧
    (takeDuplicate k f s).mark = s.mark ∧ (takeDuplicate k f s).exch = s.exch ∧
    (takeDuplicate k f s).eng = s.eng ∧ (takeDuplicate k f s).chk = s.chk ∧
    (takeDuplicate k f s).flash = s.flash := by
  unfold takeDuplicate; dsimp only; split <;> simp

@[simp] theorem endBusFault_frame (s : State) :
    (endBusFault s).pending = s.pending ∧ (endBusFault s).draws = s.draws ∧
    (endBusFault s).pins = s.pins ∧ (endBusFault s).loader = s.loader ∧
    (endBusFault s).filter = s.filter ∧ (endBusFault s).port = s.port ∧
    (endBusFault s).mark = s.mark ∧ (endBusFault s).exch = s.exch ∧ (endBusFault s).eng = s.eng ∧
    (endBusFault s).chk = s.chk ∧ (endBusFault s).flash = s.flash := by
  unfold endBusFault; dsimp only; split <;> simp

@[simp] theorem resetAll_frame (s : State) :
    (resetAll s).pending = s.pending ∧ (resetAll s).pins = s.pins := by
  simp [resetAll]

@[simp] theorem programFailed_frame (p : ProgramFor) (s : State) :
    (programFailed p s).pending = s.pending ∧ (programFailed p s).pins = s.pins ∧
    (programFailed p s).filter = s.filter ∧ (programFailed p s).port = s.port ∧
    (programFailed p s).mark = s.mark ∧ (programFailed p s).exch = s.exch ∧
    (programFailed p s).eng = s.eng ∧ (programFailed p s).chk = s.chk ∧
    (programFailed p s).bus = s.bus := by
  unfold programFailed; split <;> simp

@[simp] theorem programmed_frame (p : ProgramFor) (s : State) :
    (programmed p s).pending = s.pending ∧ (programmed p s).draws = s.draws ∧
    (programmed p s).pins = s.pins ∧ (programmed p s).filter = s.filter ∧
    (programmed p s).port = s.port ∧ (programmed p s).mark = s.mark ∧
    (programmed p s).exch = s.exch ∧ (programmed p s).eng = s.eng ∧ (programmed p s).chk = s.chk ∧
    (programmed p s).bus = s.bus ∧ (programmed p s).flash = s.flash := by
  unfold programmed; split <;> simp

@[simp] theorem eraseDone_frame (e : EraseRun) (s : State) :
    (eraseDone e s).pending = s.pending ∧ (eraseDone e s).draws = s.draws ∧
    (eraseDone e s).pins = s.pins ∧ (eraseDone e s).loader = s.loader ∧
    (eraseDone e s).filter = s.filter ∧ (eraseDone e s).port = s.port ∧
    (eraseDone e s).mark = s.mark ∧ (eraseDone e s).exch = s.exch ∧ (eraseDone e s).eng = s.eng ∧
    (eraseDone e s).chk = s.chk ∧ (eraseDone e s).bus = s.bus ∧
    (eraseDone e s).flash = s.flash := by
  unfold eraseDone; dsimp only; split <;> simp

end Sys2Proof.Machine
end

