-- ==== Sys2Proof/Laws/Groups.lean ====
section
/-! SUPPORT. The groups of like things, the small list operations and the arithmetic of the model. -/

namespace Sys2Proof.Machine

/-! ## Groups -/

@[simp] theorem eight_get_build {α : Type} (f : Chan → α) (c : Chan) : (Eight.build f).get c = f c := by
  match c with
  | 0 | 1 | 2 | 3 | 4 | 5 | 6 | 7 => rfl

@[simp] theorem eight_get_fill {α : Type} (x : α) (c : Chan) : (Eight.fill x).get c = x :=
  eight_get_build _ c

@[simp] theorem eight_get_set {α : Type} (e : Eight α) (c d : Chan) (x : α) :
    (e.set c x).get d = if d = c then x else e.get d := eight_get_build _ d

@[simp] theorem eight_get_modify {α : Type} (e : Eight α) (c d : Chan) (f : α → α) :
    (e.modify c f).get d = if d = c then f (e.get c) else e.get d := eight_get_set _ _ _ _

@[simp] theorem eight_get_map {α β : Type} (f : α → β) (e : Eight α) (c : Chan) :
    (e.map f).get c = f (e.get c) := eight_get_build _ c

/-- Groups of eight are equal when they agree at every channel. -/
theorem eight_ext {α : Type} {a b : Eight α} (h : ∀ c, a.get c = b.get c) : a = b := by
  cases a; cases b
  simp only [Eight.mk.injEq]
  exact ⟨h 0, h 1, h 2, h 3, h 4, h 5, h 6, h 7⟩

theorem mem_allChans (c : Chan) : c ∈ allChans := by revert c; decide

theorem eight_any {α : Type} (p : α → Bool) (e : Eight α) :
    e.any p = true ↔ ∃ c, p (e.get c) = true := by
  constructor
  · intro h
    obtain ⟨x, hx, hp⟩ := List.any_eq_true.mp h
    obtain ⟨c, -, rfl⟩ := List.mem_map.mp hx
    exact ⟨c, hp⟩
  · rintro ⟨c, hc⟩
    refine List.any_eq_true.mpr ⟨e.get c, List.mem_map.mpr ⟨c, mem_allChans c, rfl⟩, hc⟩

@[simp] theorem areas_get_build {α : Type} (f : Area → α) (i : Area) : (Areas.build f).get i = f i := by
  match i with
  | 0 | 1 | 2 | 3 => rfl

@[simp] theorem areas_get_set {α : Type} (e : Areas α) (i j : Area) (x : α) :
    (e.set i x).get j = if j = i then x else e.get j := areas_get_build _ j

@[simp] theorem areas_get_modify {α : Type} (e : Areas α) (i j : Area) (f : α → α) :
    (e.modify i f).get j = if j = i then f (e.get i) else e.get j := areas_get_set _ _ _ _

@[simp] theorem inputs_get_set {α : Type} (e : Inputs α) (i j : StatusInput) (x : α) :
    (e.set i x).get j = if j = i then x else e.get j := by
  cases i <;> cases j <;> rfl

/-! ## Lists -/

@[simp] theorem updateAt_length {α : Type} (f : α → α) (n : Nat) (l : List α) :
    (updateAt f n l).length = l.length := by
  induction l generalizing n with
  | nil => cases n <;> rfl
  | cons x l ih => cases n <;> simp [updateAt, ih]

theorem updateAt_getElem? {α : Type} (f : α → α) (n k : Nat) (l : List α) :
    (updateAt f n l)[k]? = if k = n then l[k]?.map f else l[k]? := by
  induction l generalizing n k with
  | nil => cases n <;> simp [updateAt]
  | cons x l ih =>
    cases n with
    | zero => cases k <;> simp [updateAt]
    | succ n => cases k <;> simp [updateAt, ih]

@[simp] theorem withPlaces_length {α : Type} (n : Nat) (l : List α) :
    (withPlaces n l).length = l.length := by
  induction l generalizing n <;> simp_all [withPlaces]

/-! ## Arithmetic -/

theorem satInc_le (limit n : Nat) : satInc limit n ≤ limit := by
  unfold satInc; split <;> omega

theorem count16_le (n : Nat) : count16 n ≤ 65535 := by
  unfold count16 satInc; split <;> omega

/-- The rounded division lies within half of the divisor of the quotient (spec/00). -/
theorem roundDiv_spec (x y : Nat) (h : 0 < y) :
    2 * y * roundDiv x y ≤ 2 * x + y ∧ 2 * x < 2 * y * roundDiv x y + y := by
  unfold roundDiv
  have h1 := Nat.div_add_mod (2 * x + y) (2 * y)
  have h2 := Nat.mod_lt (2 * x + y) (show 0 < 2 * y by omega)
  omega

/-- `ceilPercent` is the least count that reaches the percentage. -/
theorem ceilPercent_le (n p o : Nat) : ceilPercent n p ≤ o ↔ n * p ≤ 100 * o := by
  unfold ceilPercent; omega

theorem clampInt_mem (lo hi x : Int) (h : lo ≤ hi) : lo ≤ clampInt lo hi x ∧ clampInt lo hi x ≤ hi := by
  unfold clampInt; split
  · omega
  · split <;> omega

theorem clampInt_of_mem {lo hi x : Int} (h : lo ≤ x ∧ x ≤ hi) : clampInt lo hi x = x := by
  unfold clampInt; rw [if_neg (by omega), if_neg (by omega)]

end Sys2Proof.Machine
end

