-- ==== Sys2Proof/Laws/Queues.lean ====
section
/-! SUPPORT. The record queue, the sequencer and the transmit queue: what each shared operation can
do, said once. -/

namespace Sys2Proof.Machine

/-! ## The record queue (R136, R137) -/

theorem dropJob_eq (j : Job) (a : Archive) :
    a.dropJob j = { a with counts := (a.dropJob j).counts } := by
  unfold Archive.dropJob; split <;> rfl

/-- A job submitted takes the tail of a queue with room, or is dropped and the queue stays. -/
theorem enqueue_cases (j : Job) (a : Archive) :
    (a.enqueue j = { a with queue := a.queue ++ [j] } ∧ a.queue.length < 16 ∧
      a.condition ≠ .fault ∧ (a.condition = .blocked → ∃ i, j = .released i)) ∨
    (a.enqueue j = a.dropJob j ∧
      (16 ≤ a.queue.length ∨ a.condition = .fault ∨ a.condition = .blocked)) := by
  unfold Archive.enqueue
  split
  · exact .inr ⟨rfl, .inr (.inl ‹_›)⟩
  · rename_i i h
    unfold Archive.appendJob
    split
    · exact .inl ⟨rfl, ‹_›, by simp [h], fun _ => ⟨i, rfl⟩⟩
    · exact .inr ⟨rfl, .inl (by omega)⟩
  · exact .inr ⟨rfl, .inr (.inr ‹_›)⟩
  · rename_i h1 h2
    unfold Archive.appendJob
    split
    · exact .inl ⟨rfl, ‹_›, ‹_›, fun h => absurd h h1⟩
    · exact .inr ⟨rfl, .inl (by omega)⟩

/-- Submitting a job keeps the bound of the queue. -/
theorem enqueue_length (j : Job) (a : Archive) (h : a.queue.length ≤ 16) :
    (a.enqueue j).queue.length ≤ 16 := by
  rcases enqueue_cases j a with ⟨e, hl, -⟩ | ⟨e, -⟩
  · rw [e]; simp; omega
  · rw [e, dropJob_eq]; exact h

/-- Submitting a job writes the queue and the counts alone. -/
theorem enqueue_eq (j : Job) (a : Archive) :
    a.enqueue j = { a with queue := (a.enqueue j).queue, counts := (a.enqueue j).counts } := by
  rcases enqueue_cases j a with ⟨e, -⟩ | ⟨e, -⟩
  · rw [e]
  · rw [e, dropJob_eq]

/-- A queue that waits before mount or that is READY takes a job while it has room. -/
theorem enqueue_room (j : Job) (a : Archive) (h : a.queue.length < 16)
    (hc : a.condition = .notMounted ∨ a.condition = .ready) :
    a.enqueue j = { a with queue := a.queue ++ [j] } := by
  rcases hc with hc | hc <;> cases j <;> simp [Archive.enqueue, hc, Archive.appendJob, h]

/-! ## What the sequencer never writes (R138) -/

/-- The fields of the archive that no job and no selection touches. -/
def Archive.keeps (a b : Archive) : Prop :=
  b.table = a.table ∧ b.service = a.service ∧ b.erases = a.erases ∧ b.fetch = a.fetch ∧
    b.mount = a.mount ∧ b.lastDay = a.lastDay ∧ b.resume = a.resume

theorem keeps_refl (a : Archive) : a.keeps a := ⟨rfl, rfl, rfl, rfl, rfl, rfl, rfl⟩

theorem keeps_trans {a b c : Archive} (h : a.keeps b) (k : b.keeps c) : a.keeps c := by
  obtain ⟨h1, h2, h3, h4, h5, h6, h7⟩ := h
  obtain ⟨k1, k2, k3, k4, k5, k6, k7⟩ := k
  exact ⟨k1.trans h1, k2.trans h2, k3.trans h3, k4.trans h4, k5.trans h5, k6.trans h6, k7.trans h7⟩

theorem enqueue_keeps (j : Job) (a : Archive) : a.keeps (a.enqueue j) := by
  rw [enqueue_eq]; exact keeps_refl a

theorem refuseJob_keeps (cal : Option IStamp) (k f : Nat) (st : List Byte) (a : Archive) :
    a.keeps (refuseJob cal k f st a) :=
  keeps_trans (b := a.popJob.addDropped 1) (keeps_refl a) (enqueue_keeps _ _)

theorem takeRecord_keeps (cal : Option IStamp) (y : Nat) (k : RecordKind) (i : Nat)
    (d st : List Byte) (a : Archive) : a.keeps (takeRecord cal y k i d st a) := by
  unfold takeRecord
  split
  · exact refuseJob_keeps ..
  · split
    · exact refuseJob_keeps ..
    · split <;> exact keeps_refl a

theorem takeJob_keeps (cal : Option IStamp) (j : Job) (a : Archive) : a.keeps (takeJob cal j a) := by
  unfold takeJob
  split
  · exact takeRecord_keeps ..
  · exact takeRecord_keeps ..
  · exact takeRecord_keeps ..
  · unfold takeEvent
    split
    · exact keeps_refl a
    · split
      · exact keeps_refl a
      · split <;> exact keeps_refl a
  · unfold takeYearEnd
    split
    · exact keeps_refl a
    · split
      · exact keeps_refl a
      · exact keeps_trans (b := a.popJob) (keeps_refl a) (enqueue_keeps _ _)
  · exact keeps_refl a

theorem serveOpening_keeps (n : Nat) (o : Opening) (a : Archive) : a.keeps (serveOpening n o a) := by
  unfold serveOpening; repeat' split
  all_goals exact keeps_refl a

theorem startErase_keeps (a : Archive) : a.keeps (startErase a) := by
  unfold startErase
  split
  · exact keeps_refl a
  · split
    · exact keeps_refl a
    · split <;> exact keeps_refl a

/-- A selection leaves the area table, the erase list, the fetch, mount and resumption. -/
theorem selectWith_keeps (cal : Option IStamp) (n fuel : Nat) (a : Archive) :
    a.keeps (selectWith cal n fuel a) := by
  induction fuel generalizing a with
  | zero => exact keeps_refl a
  | succ fuel ih =>
    unfold selectWith
    split
    · exact keeps_refl a
    · split
      · exact keeps_refl a
      · exact keeps_trans (serveOpening_keeps ..) (ih _)
      · split
        · exact keeps_trans (takeJob_keeps ..) (ih _)
        · split
          · exact startErase_keeps a
          · exact keeps_refl a
      · split
        · exact startErase_keeps a
        · exact keeps_refl a

/-- While an operation is in flight nothing is selected. -/
theorem selectWith_busy (cal : Option IStamp) (n fuel : Nat) (a : Archive)
    (h : a.activity ≠ .idle) : selectWith cal n fuel a = a := by
  cases fuel with
  | zero => rfl
  | succ fuel => simp [selectWith, h]

/-- Before resumption, with no read and no opening waiting and mount not over, nothing is
selected. -/
theorem selectWith_waiting (cal : Option IStamp) (n fuel : Nat) (a : Archive)
    (hs : a.service = false) (hr : a.reads = []) (ho : a.opening = none)
    (hm : a.mounted = false) : selectWith cal n fuel a = a := by
  cases fuel with
  | zero => rfl
  | succ fuel =>
    unfold selectWith
    split
    · rfl
    · rw [hr, ho]
      cases a.queue <;> simp [hs, hm]

/-- A waiting read is served first. -/
theorem selectWith_read (cal : Option IStamp) (n fuel : Nat) (a : Archive) (r : ReadReq)
    (rs : List ReadReq) (hi : a.activity = .idle) (hr : a.reads = r :: rs) :
    selectWith cal n (fuel + 1) a = { a with activity := .reading r, reads := rs } := by
  unfold selectWith; rw [if_neg (by simp [hi]), hr]

/-- The head job is taken when no read and no opening waits and the queue is served. -/
theorem selectWith_job (cal : Option IStamp) (n fuel : Nat) (a : Archive) (j : Job) (js : List Job)
    (hi : a.activity = .idle) (hr : a.reads = []) (ho : a.opening = none) (hq : a.queue = j :: js)
    (hs : a.service = true) :
    selectWith cal n (fuel + 1) a = selectWith cal n fuel (takeJob cal j a) := by
  conv => lhs; unfold selectWith
  rw [if_neg (by simp [hi]), hr, ho, hq]; simp [hs]

/-- With nothing waiting, nothing starts. -/
theorem selectWith_empty (cal : Option IStamp) (n fuel : Nat) (a : Archive) (hr : a.reads = [])
    (ho : a.opening = none) (hq : a.queue = []) (he : a.erases = []) :
    selectWith cal n fuel a = a := by
  cases fuel with
  | zero => rfl
  | succ fuel =>
    unfold selectWith
    split
    · rfl
    · rw [hr, ho, hq]; simp [startErase, he]

/-! ## The length of the record queue -/

theorem refuseJob_length (cal : Option IStamp) (k f : Nat) (st : List Byte) (a : Archive)
    (h : a.queue.length ≤ 16) : (refuseJob cal k f st a).queue.length ≤ 16 := by
  apply enqueue_length
  show a.queue.tail.length ≤ 16
  rw [List.length_tail]; omega

theorem takeRecord_length (cal : Option IStamp) (y : Nat) (k : RecordKind) (i : Nat)
    (d st : List Byte) (a : Archive) (h : a.queue.length ≤ 16) :
    (takeRecord cal y k i d st a).queue.length ≤ 16 := by
  unfold takeRecord
  split
  · exact refuseJob_length _ _ _ _ _ h
  · split
    · exact refuseJob_length _ _ _ _ _ h
    · split <;> exact h

theorem takeJob_length (cal : Option IStamp) (j : Job) (a : Archive) (h : a.queue.length ≤ 16) :
    (takeJob cal j a).queue.length ≤ 16 := by
  have ht : a.queue.tail.length ≤ 16 := by rw [List.length_tail]; omega
  unfold takeJob
  split
  · exact takeRecord_length _ _ _ _ _ _ _ h
  · exact takeRecord_length _ _ _ _ _ _ _ h
  · exact takeRecord_length _ _ _ _ _ _ _ h
  · unfold takeEvent
    split
    · exact ht
    · split
      · exact ht
      · split <;> exact h
  · unfold takeYearEnd
    split
    · exact ht
    · split
      · exact h
      · exact enqueue_length _ _ ht
  · exact h

/-- A selection keeps the bound of the record queue. -/
theorem selectWith_length (cal : Option IStamp) (n fuel : Nat) (a : Archive)
    (h : a.queue.length ≤ 16) : (selectWith cal n fuel a).queue.length ≤ 16 := by
  induction fuel generalizing a with
  | zero => exact h
  | succ fuel ih =>
    have hs : ∀ b : Archive, b.queue = a.queue → b.queue.length ≤ 16 := fun b e => e ▸ h
    unfold selectWith
    split
    · exact h
    · split
      · exact h
      · refine ih _ (hs _ ?_)
        unfold serveOpening; repeat' split
        all_goals rfl
      · split
        · exact ih _ (takeJob_length _ _ _ h)
        · split
          · refine hs _ ?_
            unfold startErase; split
            · rfl
            · split
              · rfl
              · split <;> rfl
          · exact h
      · split
        · refine hs _ ?_
          unfold startErase; split
          · rfl
          · split
            · rfl
            · split <;> rfl
        · exact h

/-! ## The transmit queue (R163) -/

theorem insertFrame_perm (f : TxFrame) (q : List TxFrame) : (insertFrame f q).Perm (f :: q) := by
  induction q with
  | nil => exact .refl _
  | cons g q ih =>
    unfold insertFrame
    split
    · exact (ih.cons g).trans (.swap f g q)
    · exact .refl _

@[simp] theorem insertFrame_length (f : TxFrame) (q : List TxFrame) :
    (insertFrame f q).length = q.length + 1 := by
  rw [(insertFrame_perm f q).length_eq]; rfl

theorem mem_insertFrame (f g : TxFrame) (q : List TxFrame) :
    g ∈ insertFrame f q ↔ g = f ∨ g ∈ q := by
  rw [(insertFrame_perm f q).mem_iff]; simp

theorem foldl_max_ge (l : List Nat) (n : Nat) : n ≤ l.foldl max n := by
  induction l generalizing n with
  | nil => exact Nat.le_refl n
  | cons x l ih => exact Nat.le_trans (Nat.le_max_left n x) (ih _)

theorem foldl_max_mem (l : List Nat) (n : Nat) : l.foldl max n = n ∨ l.foldl max n ∈ l := by
  induction l generalizing n with
  | nil => exact .inl rfl
  | cons x l ih =>
    rcases ih (max n x) with h | h
    · rw [List.foldl_cons, h]
      rcases Nat.le_total n x with h' | h'
      · rw [Nat.max_eq_right h']; exact .inr (by simp)
      · rw [Nat.max_eq_left h']; exact .inl rfl
    · exact .inr (by simp [h])

theorem le_foldl_max (l : List Nat) (n x : Nat) (h : x ∈ l) : x ≤ l.foldl max n := by
  induction l generalizing n with
  | nil => cases h
  | cons y l ih =>
    rcases List.mem_cons.mp h with rfl | h
    · exact Nat.le_trans (Nat.le_max_right n x) (foldl_max_ge l _)
    · exact ih _ h

/-- No frame out of flight has a greater priority number than the greatest. -/
theorem le_greatestPriority {q : List TxFrame} {g : TxFrame} (h : g ∈ q) (hf : g.inFlight = false) :
    g.priority ≤ greatestPriority q :=
  le_foldl_max _ _ _ (List.mem_map_of_mem (List.mem_filter.mpr ⟨h, by simp [hf]⟩))

/-- A greatest priority number above 0 is that of a frame out of flight. -/
theorem greatestPriority_mem {q : List TxFrame} (h : 0 < greatestPriority q) :
    ∃ g ∈ q, g.inFlight = false ∧ g.priority = greatestPriority q := by
  rcases foldl_max_mem ((q.filter fun g => !g.inFlight).map (·.priority)) 0 with e | e
  · unfold greatestPriority at h; omega
  · obtain ⟨g, hg, he⟩ := List.mem_map.mp e
    obtain ⟨hq, hf⟩ := List.mem_filter.mp hg
    exact ⟨g, hq, by simpa using hf, he⟩

/-- An attempt begun touches the head's flight mark alone. -/
theorem startAttempt_length (b : Bus) : b.startAttempt.queue.length = b.queue.length := by
  unfold Bus.startAttempt; split <;> simp_all

/-- A submission writes the queue, the idle mark and the dropped count alone, and keeps the bound. -/
theorem submit_spec (f : TxFrame) (b : Bus) :
    b.submit f = { b with queue := (b.submit f).queue, mediumIdle := (b.submit f).mediumIdle,
                          counts := (b.submit f).counts } ∧
      (b.queue.length ≤ 12 → (b.submit f).queue.length ≤ 12) := by
  unfold Bus.submit
  split
  · refine ⟨?_, fun _ => ?_⟩
    · dsimp only; split
      · unfold Bus.startAttempt; split <;> rfl
      · rfl
    · dsimp only; split
      · rw [startAttempt_length, insertFrame_length]; omega
      · rw [insertFrame_length]; omega
  · split
    · rename_i h
      refine ⟨rfl, fun hl => ?_⟩
      obtain ⟨g, hg, hf, hp⟩ := greatestPriority_mem (q := b.queue) (by omega)
      show (insertFrame f (evictFrame (greatestPriority b.queue) b.queue)).length ≤ 12
      rw [insertFrame_length, evictFrame,
        List.length_eraseP_of_mem hg (by simp [hf, hp])]
      have : 0 < b.queue.length := List.length_pos_of_mem hg
      omega
    · exact ⟨rfl, fun h => h⟩

end Sys2Proof.Machine
end

