-- ==== Sys2Proof/Laws/Operations.lean ====
section
/-! SUPPORT. What the larger shared operations do, case by case, for citing in place of unfolding. -/

namespace Sys2Proof.Machine

/-! ## The receive path -/

/-- A frame from another station is dispatched (R168, R169). -/
theorem receive_dispatch {s : State} {j : Joined} {f : RxFrame} {kind : Byte}
    (hj : s.bus.joined = some j) (h0 : f.source ≠ 0) (hs : f.source.toNat ≠ j.number) :
    receive kind f s = dispatch kind.toNat f s := by
  unfold receive; rw [hj]; dsimp only; rw [if_neg h0, if_neg hs]

/-- A whole frame with the station's own source is a duplicate (R168). -/
theorem receive_own {s : State} {j : Joined} {f : RxFrame} {kind : Byte}
    (hj : s.bus.joined = some j) (h0 : f.source ≠ 0) (hs : f.source.toNat = j.number) :
    receive kind f s = takeDuplicate kind f s := by
  unfold receive; rw [hj]; dsimp only; rw [if_neg h0, if_pos hs]

/-- A request of a known kind and its right length reaches its owner (R169, R170). -/
theorem receive_request {s : State} {j : Joined} {f : RxFrame} {kind : Byte}
    (hj : s.bus.joined = some j) (h0 : f.source ≠ 0) (hs : f.source.toNat ≠ j.number)
    (hd : f.dest ≠ 0) (hn : f.dest.toNat = j.number) (hk : kind.toNat ∈ requestKinds)
    (hl : fixedLength kind.toNat f.payload = some f.payload.length)
    (hh : s.loader.station ≠ .halted ∨ kind.toNat = 13 ∨ kind.toNat = 15) :
    receive kind f s = serveRequest kind.toNat f s := by
  have hnum : s.number = j.number := by simp [State.number, hj]
  have hknown : knownKinds.contains kind.toNat = true := by
    revert hk; generalize kind.toNat = k
    simp only [requestKinds, knownKinds, List.mem_cons, List.not_mem_nil, or_false]
    rintro (rfl | rfl | rfl | rfl | rfl | rfl) <;> rfl
  rw [receive_dispatch hj h0 hs]
  have hk' : kind.toNat ≠ 1 ∧ kind.toNat ≠ 2 ∧ kind.toNat ≠ 3 ∧ kind.toNat ≠ 9 ∧ kind.toNat ≠ 14 ∧
      kind.toNat ≠ 16 := by
    simp only [requestKinds, List.mem_cons, List.not_mem_nil, or_false] at hk; omega
  unfold dispatch
  rw [if_neg (by tauto), if_neg (by tauto), if_pos ⟨hd, by rw [hnum]; exact hn⟩]
  unfold handleRequest
  rw [hknown, hl, if_neg (by simp), if_neg (by simp), if_neg (by tauto)]

/-! ## Checks (R114) -/

/-- A check offered: accepted, it joins the queue and the head starts if nothing runs; otherwise
nothing changes. -/
theorem offerCheck_cases (path valve : Nat) (s : State) :
    (∃ p, pathOf path = some p ∧ offerOutcome path valve s = .accepted ∧
      offerCheck path valve s = (.accepted,
        startNext { s with chk := { s.chk with queue := s.chk.queue ++ [⟨p, valve⟩] } })) ∨
    (offerCheck path valve s = (offerOutcome path valve s, s)) := by
  unfold offerCheck
  cases ho : offerOutcome path valve s <;> cases hp : pathOf path <;> simp

/-- The next check starts only when none is in progress. -/
theorem startNext_busy {s : State} {c : Check} (h : s.chk.current = some c) : startNext s = s := by
  simp [startNext, h]

theorem startNext_empty {s : State} (h : s.chk.queue = []) : startNext s = s := by
  unfold startNext; rw [h]; split <;> simp_all

/-! ## Interval closes (R31, R41) -/

/-- The Mark Unit after a close: the clock at 0, the hold-off running, the calendar advanced. -/
theorem closeInterval_mark {s : State} {stamp : IStamp} (kind : CloseKind) (o : Int) (n : Nat)
    (h : s.mark.calendar = some stamp) :
    (closeInterval kind o n s).mark.clock = some 0 ∧
      (closeInterval kind o n s).mark.boundary = 1 ∧
      (closeInterval kind o n s).mark.calendar = some stamp.advance ∧
      (closeInterval kind o n s).mark.holdOff = some 1000 ∧
      (closeInterval kind o n s).mark.pulse =
        (if kind = .expiry then some 10 else s.mark.pulse) ∧
      (closeInterval kind o n s).mark.lastOffset = s.mark.lastOffset ∧
      (closeInterval kind o n s).mark.stuck = s.mark.stuck := by
  unfold closeInterval
  rw [h]
  dsimp only
  split
  · simp [MarkUnit.close]
  · unfold closeAligning; dsimp only; split <;> simp [startInterval, MarkUnit.close]
  · simp [MarkUnit.close]

/-! ## The fetch (R150, R151) -/

/-- A fetch goes on: it waits, it ends, or it requests the read of its next index. -/
theorem advanceFetch_cases (s : State) (ft : FetchState) (h : s.arch.fetch = some ft) :
    ((ft.reading = true ∨ 12 ≤ s.bus.queue.length) ∧ advanceFetch s = s) ∨
    (sectionSlots ft.kind ≤ ft.next ∧ advanceFetch s = endFetch .range ft s) ∨
    (s.arch.areaState ft.area = some .erasing ∧ advanceFetch s = endFetch .notAvailable ft s) ∨
    (ft.next < sectionSlots ft.kind ∧ advanceFetch s =
      requestRead ⟨.fetch, slotAddr ft.area ft.kind ft.next, slotSize ft.kind⟩
        { s with arch := { s.arch with fetch := some { ft with reading := true } } }) := by
  unfold advanceFetch
  rw [h]
  dsimp only
  split
  · left; simp_all
  · split
    · right; left; exact ⟨‹_›, rfl⟩
    · split
      · right; right; left; exact ⟨‹_›, rfl⟩
      · right; right; right; exact ⟨by omega, rfl⟩

/-! ## Requests to the sequencer (R136, R138) -/

/-- While an operation is in flight a selection changes nothing. -/
theorem select_busy {s : State} (h : s.arch.activity ≠ .idle) : select s = s := by
  unfold select; rw [selectWith_busy _ _ _ _ h]

/-- A job submitted while an operation is in flight only joins the queue, or is dropped. -/
theorem submitJob_busy {s : State} (j : Job) (h : s.arch.activity ≠ .idle) :
    submitJob j s = { s with arch := s.arch.enqueue j } := by
  unfold submitJob
  refine select_busy ?_
  show (s.arch.enqueue j).activity ≠ .idle
  rw [enqueue_eq]; exact h

/-- A job submitted to a READY archive with room while an operation is in flight waits at the tail. -/
theorem submitJob_waits {s : State} {j : Job} (hc : s.arch.condition = .ready)
    (ha : s.arch.activity ≠ .idle) (hq : s.arch.queue.length < 16) :
    submitJob j s = { s with arch := { s.arch with queue := s.arch.queue ++ [j] } } := by
  rw [submitJob_busy j ha, enqueue_room j _ hq (Or.inr hc)]

theorem submitJobs_waits {l : List Job} {s : State} (hc : s.arch.condition = .ready)
    (ha : s.arch.activity ≠ .idle) (hq : s.arch.queue.length + l.length ≤ 16) :
    submitJobs l s = { s with arch := { s.arch with queue := s.arch.queue ++ l } } := by
  induction l generalizing s with
  | nil => simp [submitJobs]
  | cons j js ih =>
    simp at hq
    rw [submitJobs, submitJob_waits hc ha (by omega), ih (by exact hc) (by exact ha) (by simp; omega)]
    simp

/-- A read requested of an idle line is in flight at once. -/
theorem requestRead_idle {s : State} (r : ReadReq) (h : s.arch.activity = .idle)
    (hr : s.arch.reads = []) :
    requestRead r s = { s with arch := { s.arch with activity := .reading r } } := by
  have e : selectWith s.mark.calendar s.number 64 { s.arch with reads := s.arch.reads ++ [r] } =
      { s.arch with activity := .reading r } := by
    rw [selectWith_read (a := { s.arch with reads := s.arch.reads ++ [r] }) (hi := h) (fuel := 63)
      (r := r) (rs := []) (hr := by simp [hr])]
    simp [hr]
  simp only [h] at e
  unfold requestRead
  simp only [h]
  unfold select
  rw [number_arch]
  simp only [e]

/-- With nothing waiting at the flash, a selection changes nothing. -/
theorem select_empty {s : State} (hr : s.arch.reads = []) (ho : s.arch.opening = none)
    (hq : s.arch.queue = []) (he : s.arch.erases = []) : select s = s := by
  unfold select; rw [selectWith_empty _ _ _ _ hr ho hq he]

/-! ## The pending minute list (R61) -/

/-- A resolution takes the head off the list. -/
theorem resolveHead_minutes (s : State) : (resolveHead s).exch.minutes = s.exch.minutes.tail := by
  unfold resolveHead
  split
  · simp_all
  · dsimp only; split <;> simp_all [Exchange.leave]

/-- The test of the head only takes minutes off the list. -/
theorem settleWith_minutes (n : Nat) (s : State) :
    (settleWith n s).exch.minutes.length ≤ s.exch.minutes.length := by
  induction n generalizing s with
  | zero => exact Nat.le_refl _
  | succ n ih =>
    unfold settleWith
    split
    · exact Nat.le_refl _
    · split
      · refine Nat.le_trans (ih _) ?_
        rw [resolveHead_minutes, List.length_tail]; omega
      · exact Nat.le_refl _

end Sys2Proof.Machine
end

