-- ==== Sys2Proof/Laws/Minutes.lean ====
section
/-! SUPPORT. The pending minute list: a minute that enters it, waits and resolves, and the end of an
interval behind it; the end of a purge and of a recorded interval. -/

namespace Sys2Proof.Machine

/-- The end of an interval whose entry holds its notice: the entry leaves the list, the accumulators are
cleared. -/
theorem intervalEnd_eng {s : State} {stamp : IStamp} {sw : Eight Bool} {n : Notice}
    {rest : List IntervalEntry} (h : s.eng.intervals = ⟨stamp, sw, some n⟩ :: rest) :
    (intervalEnd s).eng.intervals = rest ∧ (intervalEnd s).eng.acc = IntervalAcc.cleared := by
  unfold intervalEnd; rw [h]; exact ⟨rfl, rfl⟩

/-- What a resolution leaves of the history and the Engine. -/
theorem resolveHead_spec {s : State} {pm : PendingMinute} {rest : List PendingMinute}
    (h : s.exch.minutes = pm :: rest) :
    (resolveHead s).exch.minutes = rest ∧
    (resolveHead s).exch.history = (pm.stamp :: s.exch.history).take 6 ∧
    (pm.last = false → (resolveHead s).eng.acc.minutes = s.eng.acc.minutes + 1 ∧
      (resolveHead s).eng.intervals = s.eng.intervals ∧ (resolveHead s).bus = s.bus) ∧
    (∀ stamp sw n l, pm.last = true → s.eng.intervals = ⟨stamp, sw, some n⟩ :: l →
      (resolveHead s).eng.intervals = l ∧ (resolveHead s).eng.acc = IntervalAcc.cleared) := by
  unfold resolveHead
  rw [h]
  dsimp only
  have hm : ∀ (st : PlantState) (i : Image) (r : Eight (Option MinuteResult)) (a : IntervalAcc),
      (a.take i st r).minutes = a.minutes + 1 := by
    intro st i r a; cases st <;> rfl
  by_cases hl : pm.last = true
  · rw [if_pos hl]
    refine ⟨by simp [engineTake, Exchange.leave],
      by simp [engineTake, Exchange.leave, Exchange.judgeMinute], by simp [hl], ?_⟩
    intro stamp sw n l _ hi
    exact intervalEnd_eng (by simpa [engineTake] using hi)
  · rw [if_neg hl]
    refine ⟨by simp [engineTake, Exchange.leave],
      by simp [engineTake, Exchange.leave, Exchange.judgeMinute], ?_, by simp [hl]⟩
    intro _
    refine ⟨?_, by simp [engineTake], by simp [engineTake]⟩
    simp [engineTake, hm]

/-- An incomplete head whose deadline has not passed waits. -/
theorem settle_wait {s : State} {pm : PendingMinute} {rest : List PendingMinute}
    (h : s.exch.minutes = pm :: rest) (hc : pm.complete s.cfg = false)
    (hd : pm.deadlineMark = false) : settle s = s := by
  unfold settle settleWith; rw [h]; simp [hc, hd]

/-- The only minute resolves when it is complete or its deadline has passed. -/
theorem settle_one {s : State} {pm : PendingMinute} (h : s.exch.minutes = [pm])
    (hc : pm.complete s.cfg = true ∨ pm.deadlineMark = true) : settle s = resolveHead s := by
  have hr : (resolveHead s).exch.minutes = [] := (resolveHead_spec h).1
  unfold settle settleWith; rw [h]; dsimp only
  rw [if_pos (by simpa using hc)]
  unfold settleWith; rw [hr]

theorem settle_none {s : State} (h : s.exch.minutes = []) : settle s = s := by
  unfold settle settleWith; rw [h]

/-- A minute that enters an empty list waits, or resolves at once. -/
theorem enterMinute_empty {s : State} {stamp : MStamp} {st : PlantState}
    {r : Eight (Option MinuteResult)} {last : Bool} {pm : PendingMinute}
    (h : s.exch.minutes = []) (hp : pm = newPending stamp st r last s) :
    (pm.complete s.cfg = false → enterMinute stamp st r last s =
      { s with exch := { s.exch with minutes := [pm] } }) ∧
    (pm.complete s.cfg = true → enterMinute stamp st r last s =
      resolveHead { s with exch := { s.exch with minutes := [pm] } }) := by
  have hf : forceHead s = s := by unfold forceHead; rw [if_neg (by simp [h])]
  unfold enterMinute; rw [hf]; dsimp only; rw [← hp, h, List.nil_append]
  exact ⟨fun hc => settle_wait (pm := pm) rfl hc (by rw [hp]; rfl),
    fun hc => settle_one rfl (Or.inl hc)⟩

/-- A minute that enters behind one that waits. -/
theorem enterMinute_behind {s : State} {stamp : MStamp} {st : PlantState}
    {r : Eight (Option MinuteResult)} {last : Bool} {q : PendingMinute}
    (h : s.exch.minutes = [q]) (hc : q.complete s.cfg = false) (hd : q.deadlineMark = false) :
    enterMinute stamp st r last s =
      { s with exch := { s.exch with minutes := [q, newPending stamp st r last s] } } := by
  have hf : forceHead s = s := by unfold forceHead; rw [if_neg (by simp [h])]
  unfold enterMinute; rw [hf]; dsimp only; rw [h]
  exact settle_wait (pm := q) rfl hc hd

theorem resolve_latest (m : MStamp) (x : Option Int) (n : Nat) (e : ValueEntry) :
    (e.resolve m x n).latest = e.latest := rfl

theorem resolveEntries_latest (m : MStamp) (n : Nat) (cs : List (Option Capture))
    (es : List ValueEntry) : (resolveEntries m n cs es).map (·.latest) = es.map (·.latest) := by
  induction es generalizing cs with
  | nil => cases cs <;> rfl
  | cons e es ih => cases cs <;> simp [resolveEntries, ih, ValueEntry.resolve]

theorem entryEvents_latest (img : Image) (m : MStamp) (k : Nat) (ps : List SubPair)
    (olds news : List ValueEntry) :
    (entryEvents img m k ps olds news).1.map (·.latest) = news.map (·.latest) := by
  induction news generalizing k ps olds with
  | nil => cases ps <;> cases olds <;> rfl
  | cons e es ih =>
    cases ps with
    | nil => rfl
    | cons p ps =>
      cases olds with
      | nil => rfl
      | cons o os =>
        unfold entryEvents; dsimp only; split <;> simp [ih]

/-- The latest slots, and with them the captures of an entering minute, are left by a resolution. -/
theorem resolveHead_latest (s : State) :
    (resolveHead s).exch.entries.map (·.latest) = s.exch.entries.map (·.latest) ∧
    (resolveHead s).exch.plant.latest = s.exch.plant.latest := by
  unfold resolveHead
  split
  · exact ⟨rfl, rfl⟩
  · dsimp only
    constructor
    · split <;> simp [engineTake, Exchange.leave, entryEvents_latest, Exchange.judgeMinute,
        resolveEntries_latest]
    · split <;> simp [engineTake, Exchange.leave, Exchange.judgeMinute] <;> split <;> rfl

theorem withPlaces_map {α β : Type} (f : α → β) (n : Nat) (l : List α) :
    withPlaces n (l.map f) = (withPlaces n l).map fun p => (p.1, f p.2) := by
  induction l generalizing n <;> simp_all [withPlaces]

theorem entryCaptures_latest (img : Image) (m : MStamp) (es : List ValueEntry) :
    entryCaptures img m es = (withPlaces 0 (es.map (·.latest))).map fun p =>
      match p.2 with
      | some l => if img.needsEntry p.1 && l.stamp == m then some ⟨l.value, l.status⟩ else none
      | none => none := by
  rw [withPlaces_map]; simp only [entryCaptures, List.map_map]; rfl

/-- An entering minute does not depend on the resolutions before it. -/
theorem newPending_latest {s t : State} (stamp : MStamp) (st : PlantState)
    (r : Eight (Option MinuteResult)) (last : Bool) (hl : t.loader = s.loader)
    (he : t.exch.entries.map (·.latest) = s.exch.entries.map (·.latest))
    (hp : t.exch.plant.latest = s.exch.plant.latest) :
    newPending stamp st r last t = newPending stamp st r last s := by
  have hc : t.cfg = s.cfg := by simp [State.cfg, hl]
  unfold newPending plantCapture
  rw [entryCaptures_latest, entryCaptures_latest, hc, he, hp]

/-- A minute that enters a full list resolves the head first (R61). -/
theorem enterMinute_full {s : State} {stamp : MStamp} {st : PlantState}
    {r : Eight (Option MinuteResult)} {last : Bool} {q p : PendingMinute}
    (h : s.exch.minutes = [q, p]) (hc : p.complete s.cfg = false) (hd : p.deadlineMark = false) :
    (enterMinute stamp st r last s).exch.minutes = [p, newPending stamp st r last s] ∧
      (enterMinute stamp st r last s).exch.history = (q.stamp :: s.exch.history).take 6 := by
  obtain ⟨h1, h2, -, -⟩ := resolveHead_spec h
  have hcfg : (resolveHead s).cfg = s.cfg := by simp [State.cfg]
  have hw : settle (resolveHead s) = resolveHead s := settle_wait h1 (by rw [hcfg]; exact hc) hd
  have hf : forceHead s = resolveHead s := by unfold forceHead; rw [if_pos (by simp [h]), hw]
  have hn : newPending stamp st r last (resolveHead s) = newPending stamp st r last s :=
    newPending_latest _ _ _ _ (by simp) (resolveHead_latest s).1 (resolveHead_latest s).2
  unfold enterMinute; rw [hf]; dsimp only; rw [hn, h1]; dsimp only [List.singleton_append]
  rw [settle_wait (pm := p) (rest := [newPending stamp st r last s]) rfl
    (by rw [← hcfg] at hc; exact hc) hd]
  exact ⟨rfl, h2⟩

/-! ## What a check leaves of the open minute -/

@[simp] theorem startCheck_minute (p : CheckPair) (s : State) :
    (startCheck p s).port.openMin = s.port.openMin ∧ (startCheck p s).port.setB = s.port.setB := by
  unfold startCheck markChecked; split <;> simp

@[simp] theorem startNext_minute (s : State) :
    (startNext s).port.openMin = s.port.openMin ∧ (startNext s).port.setB = s.port.setB := by
  unfold startNext; split <;> simp

@[simp] theorem offerScheduled_minute (st : IStamp) (p : Path) (e : ScheduleEntry) (s : State) :
    (offerScheduled st p e s).port.openMin = s.port.openMin ∧
      (offerScheduled st p e s).port.setB = s.port.setB := by
  unfold offerScheduled
  rcases offerCheck_cases p.number e.code s with ⟨q, -, -, h⟩ | h <;> rw [h]
  · split <;> simp
  · split
    · split <;> rename_i heq <;> obtain ⟨-, rfl⟩ := Prod.mk.inj heq <;> simp
    · exact ⟨rfl, rfl⟩

@[simp] theorem testSchedules_minute (st : IStamp) (s : State) :
    (testSchedules st s).port.openMin = s.port.openMin ∧
      (testSchedules st s).port.setB = s.port.setB := by
  have h : ∀ (p : Path) (l : List ScheduleEntry) (s : State),
      (l.foldl (fun s e => offerScheduled st p e s) s).port.openMin = s.port.openMin ∧
        (l.foldl (fun s e => offerScheduled st p e s) s).port.setB = s.port.setB := by
    intro p l; induction l <;> intro s <;> simp_all
  unfold testSchedules; dsimp only
  rw [(h .two _ _).1, (h .two _ _).2]; exact h .one _ _

/-! ## The start of a recorded interval (R14, R86, R6, R115) -/

/-- What the start of a recorded interval leaves. -/
theorem startInterval_spec (start : IStamp) (s : State) :
    (startInterval start s).port.openMin = some ⟨0, 0⟩ ∧
    (∀ c, (startInterval start s).port.setB.get c =
      (s.port.setB.get c || (switchSet start s).get c)) ∧
    (startInterval start s).exch = clearEventMarks s.exch ∧
    (startInterval start s).eng = { s.eng with
      intervals := s.eng.intervals ++ [⟨start, switchSet start s, none⟩] } := by
  have hs : ∀ u : State, switchSet start { u with exch := clearEventMarks u.exch } =
      switchSet start u := fun _ => rfl
  have hb : ∀ u : State, ∀ c, (switchCalibration start u).port.setB.get c =
      (u.port.setB.get c || (switchSet start u).get c) := by
    intro u c; unfold switchCalibration; dsimp only; split <;> simp
  refine ⟨?_, ?_, ?_, ?_⟩
  · simp [startInterval, openMinute]
  · intro c; simp only [startInterval, openMinute, testSchedules_minute]; rw [hb, hs]
  · simp [startInterval, openMinute]
  · simp [startInterval, openMinute]

/-- A channel switches exactly when it is enabled, still uses set A, and has a set B effective at or before
the start (R14). -/
theorem switchSet_get (start : IStamp) (s : State) (c : Chan) :
    (switchSet start s).get c = true ↔ s.port.setB.get c = false ∧
      (s.cfg.chans.get c).enable = true ∧ ∃ b, (s.cfg.chans.get c).setB = some b ∧
        b.effective.atOrBefore start = true := by
  unfold switchSet
  rw [eight_get_build]
  cases h : (s.cfg.chans.get c).setB <;> simp [h]
  tauto

/-! ## The schedules (R115) -/

/-- Without schedules nothing is offered. -/
theorem testSchedules_none {st : IStamp} {s : State} (h1 : s.cfg.path1.schedule = [])
    (h2 : s.cfg.path2.schedule = []) : testSchedules st s = s := by
  unfold testSchedules; dsimp only; rw [h1]; simp only [List.foldl_nil]; rw [h2]; rfl

theorem testSchedules_one {st : IStamp} {s : State} {e : ScheduleEntry}
    (h1 : s.cfg.path1.schedule = [e]) (h2 : s.cfg.path2.schedule = []) :
    testSchedules st s = offerScheduled st .one e s := by
  unfold testSchedules; dsimp only; rw [h1]; simp only [List.foldl_cons, List.foldl_nil]
  have : (offerScheduled st .one e s).cfg = s.cfg := by simp [State.cfg]
  rw [this, h2]; rfl

/-! ## The end of a purge and of a recorded interval -/

/-- The end of a purge, whatever other blocks have done since `s`. -/
theorem endPurge_ended (s u : State) (h1 : u.chk = s.chk) (h2 : u.port = s.port)
    (h3 : u.loader = s.loader) : PurgeEnded s (endPurge u) := by
  have hc : u.cfg = s.cfg := by simp [State.cfg, h3]
  constructor
  · intro hq; simp [endPurge, startNext, h1, hq, h2]
  · intro q rest hq
    simp only [endPurge, startNext, h1, hq, startCheck, markChecked]
    have hc' : ∀ x : CheckUnit, State.cfg { u with chk := x } = s.cfg := fun x => hc
    refine ⟨?_, ?_, ?_⟩
    · split <;> simp [hc']
    · split <;> simp [h2]
    · intro ho c
      rw [if_pos (by simpa [h2] using ho)]
      simp [checkedAccs, h2, State.cfg, h3]
      split <;> rename_i hh <;> simp [hh]

theorem clearEventMarks_marks (ex : Exchange) :
    (∀ e ∈ (clearEventMarks ex).entries, e.eventMark = false) ∧
      ∀ c, ((clearEventMarks ex).locals.get c).eventMark = false := by
  simp [clearEventMarks]

/-- What the close of a recorded interval leaves, whatever the Mark Unit has done since `s0`. -/
theorem closeRecorded_spec (s0 s : State) (stamp : IStamp) (n : Notice)
    (hr : s.loader.station = .recording) (hl : s.loader = s0.loader) (hp : s.port = s0.port)
    (he : s.exch = s0.exch) (hg : s.eng = s0.eng) (hc : s.chk = s0.chk) (hf : s.filter = s0.filter) :
    RecordedClose s0 (closeRecorded stamp stamp.advance n s) stamp n := by
  obtain ⟨v, hv⟩ : ∃ v : State,
    v = { s with eng := { s.eng with intervals := attachNotice n s.eng.intervals } } := ⟨_, rfl⟩
  obtain ⟨u, hu⟩ : ∃ u, u = closeLastMinute stamp n.length v := ⟨_, rfl⟩
  have ht : closeRecorded stamp stamp.advance n s = startInterval stamp.advance u := by rw [hu, hv]; rfl
  have hve : v.eng = { s0.eng with intervals := attachNotice n s0.eng.intervals } := by rw [hv, ← hg]
  have hvx : v.exch = s0.exch := by rw [hv, ← he]
  have hvl : v.loader = s0.loader := by rw [hv, ← hl]
  have hvp : v.port = s0.port := by rw [hv, ← hp]
  have hvc : v.chk = s0.chk := by rw [hv, ← hc]
  have hvf : v.filter = s0.filter := by rw [hv, ← hf]
  clear hv
  have hul : u.loader = s0.loader ∧ u.port = s0.port ∧ u.chk = s0.chk := by subst hu; simp [hvl, hvp, hvc]
  have hcfg : u.cfg = s0.cfg := by simp [State.cfg, hul.1]
  have hvcfg : v.cfg = s0.cfg := by simp [State.cfg, hvl]
  obtain ⟨a1, a2, a3, a4⟩ := startInterval_spec stamp.advance u
  have hsw : switchSet stamp.advance u = switchSet stamp.advance s0 := by unfold switchSet; rw [hcfg, hul.2.1]
  rw [ht]
  refine ⟨⟨by simp [hul.1]; rw [← hl]; exact hr, a1⟩, ?_, ?_, ?_, ?_, ?_⟩
  · intro c; rw [a2, hul.2.1, hsw, Bool.or_eq_true, switchSet_get]
    cases s0.port.setB.get c <;> simp
  · rw [a3]; exact clearEventMarks_marks _
  · intro o pm e ho hlt hm hi hpm
    have hmr : ∀ b, minuteResults b v = minuteResults b s0 := by
      intro b; unfold minuteResults State.calSet; rw [hvcfg, hvp, hvc]
    have hlp : v.localPlant = s0.localPlant := by unfold State.localPlant; rw [hvf]
    obtain ⟨w, hw⟩ : ∃ w, w = publishMinute ⟨stamp, o.slot⟩ v.localPlant
      (minuteResults (decide (60000 ≤ n.length - o.start)) v) v := ⟨_, rfl⟩
    have hu2 : u = enterMinute ⟨stamp, o.slot⟩ s0.localPlant
        (minuteResults (decide (60000 ≤ n.length - o.start)) s0) true w := by
      rw [hu, hw]; unfold closeLastMinute; rw [hvp, ho]; dsimp only
      rw [if_neg (by omega), closeMinute, hmr, hlp]
    have hwx : w.exch = s0.exch ∧ w.eng = v.eng ∧ w.cfg = s0.cfg := by
      subst hw; simp [hvx, State.cfg, hvl]
    have hwp : pm = newPending ⟨stamp, o.slot⟩ s0.localPlant
        (minuteResults (decide (60000 ≤ n.length - o.start)) s0) true w := by
      rw [hpm]; symm; apply newPending_latest
      · subst hw; simp [hvl]
      · rw [hwx.1]
      · rw [hwx.1]
    obtain ⟨e1, e2⟩ := enterMinute_empty (s := w) (by rw [hwx.1]; exact hm) hwp
    rw [hwx.2.2] at e1 e2
    have hatt : w.eng.intervals = [{ e with notice := some n }] := by
      rw [hwx.2.1, hve]; simp [hi, attachNotice]
    refine ⟨⟨stamp.advance, switchSet stamp.advance u, none⟩, rfl, rfl, ?_, ?_, ?_⟩
    · intro c; rw [a2, hul.2.1, hsw]
      have := switchSet_get stamp.advance s0 c
      cases h : s0.port.setB.get c <;> simp_all
    · intro hcm
      rw [a3, a4, hu2, e1 hcm]
      refine ⟨rfl, ?_, ?_, ?_⟩
      · show w.exch.history = _; rw [hwx.1]
      · show w.eng.intervals ++ _ = _; rw [hatt]; rfl
      · show w.eng.acc = _; rw [hwx.2.1, hve]
    · intro hcm
      obtain ⟨b1, b2, -, b4⟩ := resolveHead_spec
        (s := { w with exch := { w.exch with minutes := [pm] } }) (pm := pm) (rest := []) rfl
      obtain ⟨c1, c2⟩ := b4 e.stamp e.switched n [] (by rw [hpm]; rfl) hatt
      rw [a3, a4, hu2, e2 hcm]
      refine ⟨b1, ?_, ?_, c2⟩
      · show (resolveHead _).exch.history = _
        rw [b2]; show List.take 6 (pm.stamp :: w.exch.history) = _; rw [hwx.1]
      · show (resolveHead _).eng.intervals ++ _ = _; rw [c1]; rfl
  · intro o e ho hle hi
    have hu2 : u = endWithoutMinute stamp v := by
      rw [hu]; unfold closeLastMinute; rw [hvp, ho]; dsimp only; rw [if_pos (by omega)]
    have hatt : v.eng.intervals = [{ e with notice := some n }] := by rw [hve]; simp [hi, attachNotice]
    rw [a3, a4, hu2]
    constructor
    · intro hm
      have : endWithoutMinute stamp v = intervalEnd v := by unfold endWithoutMinute; rw [hvx, hm]; rfl
      obtain ⟨c1, c2⟩ :=
        intervalEnd_eng (s := v) (stamp := e.stamp) (sw := e.switched) (n := n) (rest := []) hatt
      rw [this]
      refine ⟨?_, ?_, ?_, c2⟩
      · show (intervalEnd v).exch.minutes = _; simp [hvx, hm]
      · show (intervalEnd v).exch.history = _; simp [hvx]
      · show ((intervalEnd v).eng.intervals ++ _).length = _; rw [c1]; rfl
    · intro q hq hs
      have : endWithoutMinute stamp v =
          { v with exch := { v.exch with minutes := [{ q with last := true }] } } := by
        unfold endWithoutMinute; rw [hvx, hq]; simp [markLast, hs]
      rw [this]
      refine ⟨rfl, ?_, ?_⟩
      · show (v.eng.intervals ++ _).head? = _; rw [hatt]; rfl
      · show (v.eng.intervals ++ _).length = _; rw [hatt]; rfl
  · intro h2
    obtain ⟨y, hy⟩ : ∃ y,
      y = switchCalibration stamp.advance { u with exch := clearEventMarks u.exch } := ⟨_, rfl⟩
    obtain ⟨x, hx⟩ : ∃ x, x = openMinute 0 0 { y with eng := { y.eng with
      intervals := y.eng.intervals ++ [⟨stamp.advance, switchSet stamp.advance u, none⟩] } } :=
        ⟨_, rfl⟩
    have hst : startInterval stamp.advance u = testSchedules stamp.advance x := by rw [hx, hy]; rfl
    have hxc : x.chk = s0.chk ∧ x.loader = s0.loader := by
      rw [hx, hy]; simp [openMinute, hul]
    have hxcfg : x.cfg = s0.cfg := by simp [State.cfg, hxc.2]
    rw [hst]
    constructor
    · intro h1; rw [testSchedules_none (by rw [hxcfg]; exact h1) (by rw [hxcfg]; exact h2)]; exact hxc.1
    · intro e h1
      rw [testSchedules_one (by rw [hxcfg]; exact h1) (by rw [hxcfg]; exact h2)]
      constructor
      · intro h; unfold offerScheduled; rw [if_neg]; · exact hxc.1
        simp [ScheduleEntry.due]; intro h'; rcases h with h | h
        · exact absurd h'.symm h
        · exact h
      · intro d1 d2 d3 d4 d5
        unfold offerScheduled; rw [if_pos (by simp [ScheduleEntry.due, d1, d2])]
        have ho : offerOutcome Path.one.number e.code x = .accepted := by
          simp [offerOutcome, pathOf, Path.number, hxcfg, d3, State.recording, hxc,
            State.pairKnown, d4, d5, ← hl, hr]
        unfold offerCheck; rw [ho]; simp [pathOf, Path.number, startNext, hxc, d4, d5]
        unfold startCheck; simp [State.cfg, Image.path]

end Sys2Proof.Machine
end

