-- ==== Sys2Proof/Tests/Slice0.lean ====
section
/-! SUPPORT. Tests: the checks of WellFormed, the worked examples of spec/ (their numbers are the
manual's), single commands on a small station, and for each statement with hypotheses a case that meets
them. -/

namespace Sys2Proof.Tests

open Sys2Proof Sys2Proof.Machine

/-! ## WellFormed refuses an ill-formed command -/

def frame (source : Nat) (dest : Nat) (payload : List Byte) : RxFrame :=
  ⟨4, BitVec.ofNat 5 source, byte dest, payload⟩

theorem test_wf_accepts : (Instr.status (frame 31 4 [])).wellFormed = true := by decide

theorem test_wf_source_zero : (Instr.status (frame 0 4 [])).wellFormed = false := by decide

theorem test_wf_destination : (Instr.status (frame 31 32 [])).wellFormed = false := by decide

theorem test_wf_payload :
    (Instr.status (frame 31 4 (List.replicate 337 0))).wellFormed = false := by decide +kernel

theorem test_wf_image :
    (Instr.eepromReadDone true (List.replicate 4097 0)).wellFormed = false := by decide +kernel

theorem test_wf_place : (Instr.minuteDeadlineExpiry 2).wellFormed = false := by decide

theorem test_wf_known_kind : (Instr.unknownKind 13 (frame 31 4 [])).wellFormed = false := by decide

/-! ## The manual's worked numbers -/

/-- spec/00: 19,683.84, 909,090.5 and 29,545.4 round to 19,684, 909,091 and 29,545. -/
theorem test_rounding : roundDiv 1968384 100 = 19684 ∧ roundDiv 9090905 10 = 909091 ∧
    roundDiv 295454 10 = 29545 := by decide

/-- spec/05: n 58 and S 1,247,000 give m 19,534 with G 60,000 and O −150. -/
theorem test_calibration : calibrate ⟨60000, -150⟩ 58 1247000 = 19534 := by decide

/-- The TEMPERATURE channel of the worked calibration (R11, R12): the first minute stands, the second is
clamped. -/
theorem test_temperature_clamp :
    let cfg := { blankChannel with kind := .temperature }
    let result := fun sum =>
      minuteResult cfg ⟨800000, -50000⟩ false true { MinuteAcc.cleared with n := 6, sum := sum }
    ((result 6000).value, (result 6000).flags.clampLow) = (some (-37793), false) ∧
      ((result 3000).value, (result 3000).flags.clampLow) = (some (-40000), true) := by decide

/-- spec/01: the minute broken by a check, as its example hands it on. -/
theorem test_broken_minute :
    minuteResult { blankChannel with sMin := 20, expected := 30 } ⟨200000, 0⟩ false true
        ⟨14, 280000, 3, 0, 12, 29, false, false, true⟩ =
      ⟨14, some 61035, none, .invalid .check, { MFlags.none with lowRate := true }, 3, 0, 12⟩ := by
  decide

/-- spec/05: the factors of the worked case. -/
theorem test_factors : factorT 140000 = 1512539 ∧ factorP 985000 = 1028680 ∧
    factorH 18000 = 1219512 ∧ dryO2 true 8200 18000 = 10000 ∧ factorO2 11000 10000 = 909091 := by
  decide

def fullBasis : ChannelCfg :=
  { blankChannel with basisT := true, basisP := true, basisDry := true, basisO2 := true,
                      o2Wet := true, o2Ref := 11000 }

/-- spec/05: the worked case ends at 33,695 without a flag. -/
theorem test_normalized : normalize fullBasis 19000 19534
    ⟨some 140000, some 985000, some 18000, some 8200⟩ = ⟨33695, false, false, false⟩ := by decide

/-- spec/05: moisture out of range ends at 69,078 with HCLAMP. -/
theorem test_moisture_clamped : normalize fullBasis 19000 19534
    ⟨some 140000, some 985000, some 52000, some 8200⟩ = ⟨69078, false, true, false⟩ := by decide

/-- spec/05: oxygen at the cap ends at 60,000 with O2CAP. -/
theorem test_oxygen_capped :
    normalize { blankChannel with basisO2 := true, o2Ref := 11000 } 19000 12000
      ⟨none, none, none, some 20400⟩ = ⟨60000, false, false, true⟩ := by decide

/-- spec/05: saturation in the chain ends at 9,999,999 with SAT and O2CAP. -/
theorem test_chain_saturates :
    normalize { blankChannel with basisT := true, basisO2 := true, o2Ref := 11000 } 19000 2400000
      ⟨some 180000, none, none, some 19500⟩ = ⟨9999999, true, false, true⟩ := by decide

/-- spec/02: the classes of its two interval examples. -/
theorem test_plant_class : plantClass 50 30 14 9 = .transition ∧ plantClass 40 30 14 9 = .operating ∧
    plantClass 50 7 4 0 = .operating := by decide

/-- spec/06: the cold stack's average, and the worked interval's average, V and class. -/
theorem test_interval_average : averageOf .temperature 4 (-157499) = some (-39375) ∧
    averageOf .pollutant 28 943460 = some 33695 ∧
    validatedValue { blankChannel with limD := 10000, cip := 40 } 33695 = 29695 ∧
    limitClass { blankChannel with limA := 60000, limB := 10000 } 29695 = .band := by decide

/-- spec/06: one day judged two ways. -/
theorem test_day_two_ways :
    dayClass { blankImage.station with countUnrecorded := true } 8 ⟨36, 33, 330990, 3⟩ = .invalid ∧
    dayClass { blankImage.station with countUnrecorded := false } 8 ⟨36, 33, 330990, 3⟩ = .valid ∧
    dayAverage ⟨36, 33, 330990, 3⟩ = some 10030 := by decide

/-- spec/06: the share and the mean D of the year summarised. -/
theorem test_year_figures :
    yearShare { YearChan.cleared with valid := 13950, band := 41 } = some 29 ∧
    yearMeanD { YearChan.cleared with validDays := 302, sumD := 2114000 } = some 7000 := by decide

/-- spec/07: day 7 of the span drift locks at 10,500; the zero check's value is −58. -/
theorem test_drift :
    DriftRecord.result
      { blankChannel with driftK := 2000, driftH := 10000, driftHard := 15000 } 3900
      ⟨8600, 0, false⟩ = ⟨10500, 0, true⟩ ∧
    calibrate ⟨60000, -150⟩ 84 8400 = -58 ∧ calibrate ⟨400000, 0⟩ 60 1521746 = 154800 := by decide

/-- spec/11: the values 33,695 and 29,695 on the line. -/
theorem test_values_on_the_line : valueBe (some 33695) = [0x01, 0x1F, 0xDF] ∧
    valueBe (some 29695) = [0x01, 0x10, 0x3F] := by decide

/-- spec/03: the offsets of an edge at 1,793,802 ms and at 1,800,000 ms. -/
theorem test_offsets : signedOffset 1793802 = 6198 ∧ signedOffset 1800000 = 0 := by decide

/-- R41: the last interval of 2099 is followed by the first of 2000. -/
theorem test_calendar_wraps : (IStamp.mk 2099 365 47).advance = ⟨2000, 1, 0⟩ := by decide

/-- R132: the interval slot of (2031, 200, 8) in area 1. -/
theorem test_slot_address :
    slotAddr 1 .interval (intervalIndex ⟨2031, 200, 8⟩) = 0x200000 + 0x32000 + 9560 * 96 := by decide

/-! ## A small station -/

/-- Channel 1 of the station: a POLLUTANT on path 1 with a ZERO entry for valve code 1. -/
def channel1 : ChannelCfg :=
  { blankChannel with
    enable := true, path := 1, expected := 30, sMin := 20, setA := ⟨60000, -150⟩
    driftK := 2000, driftH := 10000, driftHard := 15000, valves := [⟨1, .zero, 0⟩] }

def image : Image :=
  { blankImage with
    station := { blankImage.station with number := 4 }
    chans := blankImage.chans.set 0 channel1 }

/-- Area 0 is OPEN for 2031, the others are FREE. -/
def table : Areas AreaEntry :=
  Areas.build fun i =>
    if i = 0 then ⟨.opened, some 2031, some 4, false⟩ else ⟨.free, none, none, false⟩

/-- Station 4, RECORDING slot 0 of (2031, 200, 8), its archive READY with nothing in flight. -/
def running : State :=
  { State.reset with
    pins := { State.reset.pins with resetHeld := false }
    loader := ⟨.recording, .done, none, none, some image⟩
    bus := { Bus.reset with joined := some ⟨4, 0⟩ }
    mark := { MarkUnit.reset with clock := some 0, calendar := some ⟨2031, 200, 8⟩, sync := .locked }
    port := { SamplePort.reset with openMin := some ⟨0, 0⟩ }
    eng := { Engine.reset with intervals := [⟨⟨2031, 200, 8⟩, Eight.fill false, none⟩] }
    arch := { Archive.reset with condition := .ready, service := true, table := some table } }

/-- A test of the state after a command. -/
def after (i : Instr) (s : State) (p : State → Bool) : Bool :=
  match exec i s with
  | .next t => p t
  | _ => false

/-- A read of mount is in flight, so nothing else is selected. -/
def reading : Activity := .reading ⟨.mount, 0, 8⟩

def busy (s : State) : State := { s with arch := { s.arch with activity := reading } }

/-! ## Single commands -/

/-- R200, R5: an OVER word of code 16 for channel 1. -/
theorem test_over_word : after (.sampleWord 0x030010) running (fun t =>
    t.port.acc.c1 == ⟨1, 16, 0, 0, 0, 1, true, false, false⟩) = true := by decide

/-- R200: bits 20..18 of 5 name channel 6, which is not enabled. -/
theorem test_word_channel : wordChannel 0x140000 = 5 ∧
    after (.sampleWord 0x140000) running (fun t => t.port == running.port) = true := by decide

/-- R8: the boundary at 60,000 closes slot 0 and opens slot 1. -/
theorem test_boundary : after .minuteBoundary running (fun t =>
    t.port.openMin == some ⟨1, 60000⟩ && t.mark.clock == some 60000 && t.exch.minutes.isEmpty) =
    true := by decide

/-- R32, R41: own expiry while LOCKED drives MARK and starts (2031, 200, 9). -/
theorem test_own_expiry : after .ownExpiry (busy running) (fun t =>
    t.mark.pulse == some 10 && t.mark.calendar == some ⟨2031, 200, 9⟩ &&
      t.port.openMin == some ⟨0, 0⟩) = true := by decide

/-- spec/09: a MINUTE frame into a full queue of priority 6 evicts the oldest. -/
theorem test_queue_pressure :
    (Bus.submit (buildFrame 1 0 [])
      { Bus.reset with
        queue := buildFrame 14 31 [] :: List.replicate 11 (buildFrame 9 31 []) }).queue =
      buildFrame 1 0 [] :: List.replicate 11 (buildFrame 9 31 []) := by decide

/-- R170: a CHECK of the wrong length is answered BAD_ARGUMENT. -/
theorem test_check_length : after (.checkRequest (frame 31 4 [1])) running (fun t =>
    t.bus.queue.map (·.payload) == [replyPayload 10 .badArgument 0 [1]]) = true := by decide

/-- spec/07: a CHECK of a pair already in progress is MERGED. -/
theorem test_check_merged :
    after (.checkRequest (frame 31 4 [1, 1]))
      { running with chk := { running.chk with current := some ⟨⟨.one, 1⟩, .settle 1⟩ } } (fun t =>
        t.bus.queue.map (·.payload) == [replyPayload 10 .merged 0 [1, 1]] &&
          t.chk.queue.isEmpty) = true := by decide

/-- spec/09: a CHECK at a HALTED station is answered NOT_AVAILABLE. -/
theorem test_check_halted :
    after (.checkRequest (frame 31 4 [1, 1]))
      { running with loader := { running.loader with station := .halted } } (fun t =>
        t.bus.queue.map (·.payload) == [replyPayload 10 .notAvailable 0 [1, 1]]) = true := by decide

/-- R147: the OPEN year is not released. -/
theorem test_release_open : after (.release (frame 31 4 (be 2 2031))) running (fun t =>
    t.bus.queue.map (·.payload) == [replyPayload 12 .wrongState 0 (be 2 2031)] &&
      t.arch == running.arch) = true := by decide

/-- R149: a FETCH of a year no area holds is answered NOT_FOUND. -/
theorem test_fetch_not_found : after (.fetch (frame 31 4 (be 2 2030 ++ [0, 0, 0, 1]))) running
    (fun t => t.bus.queue.map (·.payload) ==
      [replyPayload 8 .notFound 0 (be 2 2030 ++ [0, 0, 0, 1])]) = true := by decide

/-- R46: a TIME frame two intervals ahead disagrees. -/
theorem test_time_disagrees :
    after (.timeFrame (frame 31 0 (be 2 2031 ++ be 2 200 ++ [10] ++ be 3 0))) (busy running)
      (fun t => t.mark.disagreements == 1 && t.mark.disagreeMark && t.arch.queue.length == 1) =
      true := by decide

/-- R42: a day 366 of 2031 is refused. -/
theorem test_time_refused :
    after (.timeFrame (frame 31 0 (be 2 2031 ++ be 2 366 ++ [0] ++ be 3 0))) running
      (fun t => t.mark.refusedTimes == 1) = true := by decide

/-- R182, R190: a header of format 2 refuses at stage HEADER. -/
theorem test_header_refused :
    after (.eepromReadDone true [2, 0, 100, 12, 0, 0])
      { State.reset with loader := { Loader.reset with phase := .header } } (fun t =>
        t.loader.station == .halted && t.loader.refusal.map (·.stage) == some 2) = true := by decide

/-- R143: the holdoff's end resumes the erase at run 0 with its limit clock (spec/08: 4 at 18 ms). -/
theorem test_holdoff :
    after .eraseHoldoffExpiry
      { running with arch := { running.arch with activity := .suspendedHold ⟨2, 6, 4, 4⟩ 0 } }
      (fun t => t.arch.activity == .erasing ⟨2, 6, 0, 4⟩) = true := by decide

/-- R194: a frame line as the station writes it is read back as the frame. -/
theorem test_line_read_back :
    readLine (frameLine 4 31 4 13 []) = some (13, frame 31 4 []) := by decide +kernel

/-- R161: time passes on an empty queue with nothing due. -/
theorem test_idle_ticks : step { running with bus := Bus.reset } =
    .next (tick { running with bus := Bus.reset }) := by rfl

/-! ## A case for each statement with hypotheses

Each theorem below gives a state and operands that meet the hypotheses of the statement its name ends
in, clause by clause. -/

/-- A command is answered by a next state. -/
def answers (i : Instr) (s : State) : Bool := after i s fun _ => true

def steps (s : State) : Bool :=
  match step s with
  | .next _ => true
  | _ => false

def withStation (st : StationState) (s : State) : State :=
  { s with loader := { s.loader with station := st } }

def withActivity (a : Activity) (s : State) : State := { s with arch := { s.arch with activity := a } }

def withJobs (l : List Job) (s : State) : State := { s with arch := { s.arch with queue := l } }

/-- The state between reset and mount. -/
def unmounted : State := { running with arch := Archive.reset }

theorem witness_CommandsLeaveTheQueue :
    answers .holdOffExpiry { running with pending := [.mediumIdle] } = true := by decide

def programOf (d : List Byte) : Program := ⟨.record, 0x32000, d, 10⟩

/-- A program of two bytes waits for its completion at the front of the queue. -/
def programming : State :=
  withActivity (.programming (programOf [1, 0])) (withJobs [.event [1, 0]] running)

theorem witness_FlashFormKept :
    flashWf [(7, 0)] = true ∧
    steps { programming with flash := [(7, 0)], pending := [.flashProgramDone true] } = true := by
  decide

def fullBus : Bus :=
  { joined := some ⟨4, 0⟩, mediumIdle := false, queue := List.replicate 12 (buildFrame 9 31 [])
    failures := 0, fault := false, duplicate := none, restart := none, counts := ⟨0, 0, 0, 0, 0⟩ }

theorem witness_TransmitQueueBoundKept :
    fullBus.queue.length ≤ 12 ∧
    steps { running with bus := fullBus, pending := [.status (frame 31 4 [])] } = true := by decide

def markLow (s : State) : State := { s with mark := { s.mark with stuckTimer := some 0 } }

/-- A full record queue and a full erase list, one area OPEN. -/
def fullArchive : State :=
  let s := markLow (busy (withJobs (List.replicate 16 (.event [])) running))
  { s with arch := { s.arch with erases := [⟨1, 1⟩, ⟨2, 1⟩, ⟨3, 2⟩] }, pending := [.markStuck] }

theorem witness_RecordQueueBoundKept :
    fullArchive.recordsOk ∧ fullArchive.erasesOk ∧ fullArchive.OneOpen ∧
    steps fullArchive = true := by
  refine ⟨by unfold State.recordsOk; decide, by unfold State.erasesOk; decide, ⟨?_, ?_, ?_⟩,
    by decide⟩
  · intro t i j ht _ _ _
    cases ht
    revert i j
    decide
  · intro p _ _ h; exact absurd h (by simp [fullArchive, markLow, busy, reading])
  · intro p _ _ h; exact absurd h (by simp [fullArchive, markLow, busy, reading])

def minute (slot : Nat) : PendingMinute :=
  { stamp := ⟨⟨2031, 200, 8⟩, slot⟩, results := Eight.fill none, localState := some .operating
    deadline := some 5000, deadlineMark := false, caps := [], plantCap := none, last := false }

def withMinutes (l : List PendingMinute) (s : State) : State :=
  { s with exch := { s.exch with minutes := l } }

/-- A check is in progress and the four other pairs of its path wait. -/
def fullChecks : State :=
  { withMinutes [minute 0, minute 1] running with
    chk := { running.chk with
      current := some ⟨⟨.one, 1⟩, .purge (some 0) 9 false⟩
      queue := [⟨.one, 2⟩, ⟨.one, 3⟩, ⟨.two, 1⟩, ⟨.two, 2⟩] }
    pending := [.purgeCeiling] }

theorem witness_PendingMinuteBoundKept :
    fullChecks.minutesOk ∧ fullChecks.ChecksOk ∧ steps fullChecks = true := by
  refine ⟨by unfold State.minutesOk; decide,
    ⟨by decide, by decide, ?_, fun h => absurd h (by decide)⟩, by decide⟩
  intro c hc
  cases hc
  decide

theorem running_inKeeping : running.InKeeping :=
  ⟨by decide, by decide, by decide, by decide⟩

theorem running_clockOk : running.ClockOk :=
  ⟨fun c h => by cases h; decide, by decide, by decide, by decide, by decide⟩

theorem witness_StationInKeepingKept :
    State.InKeeping { running with pending := [.ownExpiry] } ∧
    State.ClockOk { running with pending := [.ownExpiry] } ∧
    steps { running with pending := [.ownExpiry] } = true :=
  ⟨⟨by decide, by decide, by decide, by decide⟩,
    ⟨fun c h => by cases h; decide, by decide, by decide, by decide, by decide⟩, by decide⟩

theorem witness_StationMovesFollowTheTable :
    State.InKeeping (withStation .aligning running) ∧
    after .ownExpiry (withStation .aligning running) (fun t => t.loader.station == .recording) =
      true :=
  ⟨⟨by decide, by decide, by decide, by decide⟩, by decide⟩

theorem witness_ResetCutsOnlyTheOperationInFlight_program :
    programming.arch.activity = .programming (programOf [1, 0]) ∧
    answers .resetPin programming = true ∧ 0x31FFF < (programOf [1, 0]).addr := by decide

theorem witness_ResetCutsOnlyTheOperationInFlight_erase :
    answers .powerUp (withActivity (.erasing ⟨2, 6, 0, 0⟩) running) = true ∧
    (eraseRange ⟨2, 6, 0, 0⟩).1 + (eraseRange ⟨2, 6, 0, 0⟩).2 ≤ 0x460000 := by decide

/-- An opening is programmed; its OPEN marker is the last byte. -/
def openingProgram : Program := ⟨.opening 1 2032, 0x200000, [0x07, 0xF0, 4, 0xFF] ++ [0x00], 10⟩

theorem witness_ResetCutsOnlyTheOperationInFlight_last :
    (withActivity (.programming openingProgram) running).flashOk ∧
    (programOf ([1] ++ [0])).purpose = .record ∧
    answers .resetPin (withActivity (.programming openingProgram) running) = true ∧
    ({ running.bus with restart := some 7 } : Bus).restart.isSome = true ∧
    answers .restartTimerExpiry { running with bus := { running.bus with restart := some 7 } } =
      true := by
  unfold State.flashOk
  decide

theorem witness_ResetPeriodEndBeginsLoading :
    State.reset.pins.resetHeld = true ∧ running.pins.resetHeld = false ∧
    State.reset.loader.station = .loading ∧ State.reset.loader.phase ≠ .done := by decide

def loadingAt (p : LoadPhase) : State :=
  { State.reset with loader := { Loader.reset with phase := p } }

theorem witness_UnacknowledgedReadHalts :
    (loadingAt .header).loader.phase = .header ∧
    (loadingAt (.image [1])).loader.phase = .image [1] := by decide

/-! ### An image that passes (R183 to R189) -/

def stationSection : List Byte :=
  [4, 2, 3, 0x13, 0x88, 2, 20, 20, 20, 20, 50, 66, 5, 0, 10, 1, 0x2C, 0x7F, 1, 0x4A, 0x38, 4, 8, 0]

/-- An unused CHANNEL section, its fields in range. -/
def channelSection (n : Nat) : List Byte :=
  [byte n, 0, 1, 0, 30, 20, 0, 0, 0xEA, 0x60, 0, 0, 0, 0] ++ List.replicate 25 0 ++
    [0, 0xEA, 0x60, 0, 0x27, 0x10, 0, 0x27, 0x10, 40, 0, 0, 0, 0, 0, 100, 0, 1, 0, 0] ++
    List.replicate 21 0

def pathSection (n : Nat) : List Byte := [byte n, 0, 60, 0, 60, 0, 60, 0, 120] ++ List.replicate 11 0

def sections : List (Nat × List Byte) :=
  [(1, stationSection), (3, List.replicate 16 0)] ++
    (List.range 8).map (fun i => (2, channelSection (i + 1))) ++
    [(4, pathSection 1), (4, pathSection 2)]

/-- The table entries and the bytes of the sections, the first at an offset. -/
def layOut : Nat → List (Nat × List Byte) → List Byte × List Byte
  | _, [] => ([], [])
  | off, (type, bs) :: rest =>
    let r := layOut (off + bs.length) rest
    (byte type :: be 2 off ++ be 2 bs.length ++ r.1, bs ++ r.2)

def imageBytes : List Byte :=
  let r := layOut 66 sections
  let body := r.1 ++ r.2
  let head := (1 : Byte) :: be 2 (6 + body.length) ++ [12]
  head ++ be 2 (crc16 (head ++ [0, 0] ++ body)).toNat ++ body

set_option maxRecDepth 1000000 in
theorem witness_PassedImageIsTakenUp :
    imageBytes.length = headerImageLen (imageBytes.take 6) ∧
    imageRefusal imageBytes (headerCount (imageBytes.take 6)) = none ∧
    (loadingAt (.image (imageBytes.take 6))).arch.activity = .idle := by decide +kernel

/-- The read of area 3's header, and of a slot of the day section, is in flight for mount. -/
def mounting (m : Mount) : State :=
  let s := withStation .mounting running
  { s with arch := { s.arch with mount := m, activity := .reading ⟨.mount, 0x600000, 320⟩ } }

theorem witness_PassedImageIsTakenUp_headers :
    (mounting (.headers (List.replicate 3 ⟨.free, none, none, false⟩) [])).arch.activity =
      .reading ⟨.mount, 0x600000, 320⟩ ∧ 0x600000 + 320 ≤ flashSize ∧
    (headerEntry (List.replicate 8 0xFF) true 4).state = .free ∧
    (headerEntry [7, 239, 4, 255, 0, 0, 0, 0] false 4).state = .erasing ∧
    (headerEntry [7, 239, 4, 255, 0, 0, 0, 255] false 4).state = .released := by decide

/-- A day slot read as ERASED at slot 0 and above it, and one that is COMMITTED. -/
theorem witness_PassedImageIsTakenUp_days :
    (mounting (.days 1)).arch.openArea = some (0, ⟨.opened, some 2031, some 4, false⟩) ∧
    (mounting (.days 1)).arch.reads = [] ∧ (mounting (.days 1)).arch.opening = none ∧
    slotState (flashReadBytes (mounting (.days 1)).flash 0x600000 320) ≠ .committed ∧
    slotState (List.replicate 319 1 ++ [0]) = .committed := by decide +kernel

/-! ### Samples -/

def okWord : BitVec 24 := 0x000010
def faultWord : BitVec 24 := 0x020010

def accOf (n words : Nat) : MinuteAcc := ⟨n, 0, 0, 0, 0, words, false, false, false⟩

def withAcc (a : MinuteAcc) (s : State) : State :=
  { s with port := { s.port with acc := s.port.acc.set 0 a } }

theorem witness_WordIsDiscardedOrAccumulated :
    (withStation .aligning running).loader.station ≠ .recording ∧
    (running.cfg.chans.get (wordChannel 0x140000)).enable = false ∧
    (running.cfg.chans.get (wordChannel okWord)).enable = true ∧
    running.underCheck (wordChannel okWord) = false ∧
    wordStatus okWord = 0 ∧ wordStatus 0x010010 = 1 ∧ wordStatus faultWord = 2 ∧
    wordStatus 0x030010 = 3 ∧
    ((withAcc (accOf 119 255) running).port.acc.get (wordChannel okWord)).n < 120 ∧
    120 ≤ ((withAcc (accOf 120 255) running).port.acc.get (wordChannel okWord)).n := by decide

def checking (p : Progress) : State :=
  { running with chk := { running.chk with current := some ⟨⟨.one, 1⟩, p⟩ } }

/-- In SETTLE, and in MEASURE with fewer than 1,000 words and with 1,000. -/
theorem witness_WordUnderCheckIsExcluded :
    (checking (.settle 5)).loader.station = .recording ∧
    ((checking (.settle 5)).cfg.chans.get (wordChannel okWord)).enable = true ∧
    (checking (.settle 5)).underCheck (wordChannel okWord) = true ∧
    (checking (.settle 5)).measuring (wordChannel okWord) = false ∧
    (checking (.measure 5)).underCheck (wordChannel okWord) = true ∧
    (checking (.measure 5)).measuring (wordChannel okWord) = true ∧
    ((checking (.measure 5)).chk.acc.get (wordChannel okWord)).n < 1000 ∧
    1000 ≤ (CheckAcc.mk 1000 0 0 0 false).n := by decide

/-- R118: the thousand-and-first OVER word of MEASURE sets OVER and leaves count and sum. -/
theorem test_measure_over :
    CheckAcc.take 3 16 ⟨1000, 7, 0, 0, false⟩ = ⟨1000, 7, 0, 0, true⟩ ∧
    CheckAcc.take 0 16 ⟨999, 7, 0, 0, false⟩ = ⟨1000, 23, 0, 0, false⟩ := by decide

theorem witness_LowRateMarksSlowFullMinutes :
    (accOf 20 29).words < channel1.expected ∧ channel1.sMin ≤ (accOf 20 29).n ∧
    (minuteResult channel1 channel1.setA false true (accOf 20 29)).flags.lowRate = true := by decide

theorem witness_MinuteValuesLieInRange :
    1 ≤ channel1.sMin ∧
    (minuteResult channel1 channel1.setA false true (accOf 20 29)).status = .valid ∧
    (minuteResult channel1 channel1.setA false true (accOf 20 29)).value = some 0 := by decide

/-! ### Status inputs -/

/-- The filter works with one filter time for all inputs; FEED's filtered level stands beside it. -/
def filtering (feed : Bool) (steps : Nat) : State :=
  let st := { Tests.image.station with filterSteps := ⟨steps, steps, steps, steps⟩ }
  let img := { Tests.image with station := st }
  { running with
    filter := { running.filter with level := ⟨feed, false, false, false⟩ }
    loader := { running.loader with image := some img } }

theorem witness_RawEdgeDrivesTheFilter :
    (filtering true 20).loader.image.isSome = true ∧
    true = (filtering true 20).filter.level.get .feed ∧
    true ≠ (filtering false 20).filter.level.get .feed ∧
    (filtering false 20).cfg.station.filterSteps.get .feed ≠ 0 ∧
    (filtering false 0).cfg.station.filterSteps.get .feed = 0 := by decide

/-- RDY1 and RDY2 become active in a served purge of their path, a pair of the other path waiting; FEED's
timer runs beside them. -/
theorem witness_FilterExpiryTakesTheRawLevel :
    ∀ i path, (i = StatusInput.rdy1 ∧ path = Path.one) ∨ (i = .rdy2 ∧ path = .two) →
      ∃ s : State, s.filter.timer.get i = some 0 ∧ s.pins.raw.get i = true ∧
        s.filter.level.get i = false ∧ s.filter.timer.get .feed = some 0 ∧
        s.chk.queue = [⟨.one, 2⟩] ∧
        s.chk.current = some ⟨⟨path, 1⟩, .purge none 9 true⟩ := by
  intro i path h
  refine ⟨{ running with
      chk := { running.chk with
        current := some ⟨⟨path, 1⟩, .purge none 9 true⟩, queue := [⟨.one, 2⟩] }
      filter := ⟨⟨false, false, false, false⟩, ⟨some 0, none, some 0, some 0⟩⟩
      pins := ⟨false, ⟨false, false, true, true⟩, false⟩ }, ?_⟩
  rcases h with ⟨rfl, rfl⟩ | ⟨rfl, rfl⟩ <;> decide

/-! ### The Mark Unit -/

def withMark (m : MarkUnit) (s : State) : State := { s with mark := m }

/-- An edge is about to be taken at a clock value. -/
def edgeAt (c : Nat) (sync : MarkSync) : State :=
  withMark { running.mark with clock := some c, sync := sync, lowCheck := some 0 } running

theorem witness_OwnExpiryClosesTheInterval :
    running.mark.clock = some 0 ∧ running.mark.calendar = some ⟨2031, 200, 8⟩ ∧
    running.mark.sync ≠ .realigning ∧ (edgeAt 0 .realigning).mark.stuck = false ∧
    (edgeAt 0 .realigning).loader.station ≠ .aligning ∧
    (withStation .aligning running).loader.station = .aligning ∧
    running.loader.station = .recording := by decide

/-- The station takes the plant state from station 7 and has none of it yet: its minutes wait. -/
def following : State :=
  let image := { Tests.image with plantSource := some 7 }
  { running with loader := { running.loader with image := some image } }

def schedule (e : ScheduleEntry) : State :=
  let path := { Tests.image.path1 with schedule := [e] }
  { running with loader := { running.loader with image := some { Tests.image with path1 := path } } }

/-- `RecordedClose` of `running` and its like: the last minute full, partial, of no length; complete and
not; a pending minute of the interval; no schedule, one that is due at interval 9, one that is not. -/
theorem witness_RecordedClose :
    running.port.openMin = some ⟨0, 0⟩ ∧ (0 : Nat) < 1800000 ∧ 60000 ≤ 1800000 - 0 ∧
    ¬ 60000 ≤ 1800000 - 1740001 ∧ running.exch.minutes = [] ∧
    running.eng.intervals = [⟨⟨2031, 200, 8⟩, Eight.fill false, none⟩] ∧
    (newPending ⟨⟨2031, 200, 8⟩, 0⟩ running.localPlant (minuteResults true running) true
      running).complete running.cfg = true ∧
    (newPending ⟨⟨2031, 200, 8⟩, 0⟩ following.localPlant (minuteResults true following) true
      following).complete following.cfg = false ∧
    (withMinutes [minute 29] running).exch.minutes.map (·.stamp.interval) = [⟨2031, 200, 8⟩] ∧
    running.cfg.path1.schedule = [] ∧ running.cfg.path2.schedule = [] ∧
    (schedule ⟨1, 9, 1, 0⟩).cfg.path1.schedule = [⟨1, 9, 1, 0⟩] ∧ (200 - 1) % 1 = 0 ∧
    (IStamp.mk 2031 200 8).advance.index = 9 ∧
    (schedule ⟨1, 9, 1, 0⟩).cfg.valveUsed .one 1 = true ∧
    (IStamp.mk 2031 200 8).advance.index ≠ (ScheduleEntry.mk 1 10 1 0).index := by decide

/-- R115: the entry due at interval 9 starts its check at the close. -/
theorem test_schedule_due : after .ownExpiry (busy (schedule ⟨1, 9, 1, 0⟩)) (fun t =>
    t.chk.current == some ⟨⟨.one, 1⟩, .settle 30000⟩) = true := by decide

def switching : State :=
  let channel := { channel1 with setB := some ⟨⟨70000, 0⟩, ⟨2031, 200, 9⟩⟩ }
  let image := { Tests.image with chans := Tests.image.chans.set 0 channel }
  { running with loader := { running.loader with image := some image } }

/-- R14: a set B effective from interval 9 on is in use after the close. -/
theorem test_calibration_switch :
    after .ownExpiry (busy switching) (fun t => t.port.setB.get 0 && !t.port.setB.get 1) = true := by decide

theorem witness_CalendarAdvancesByOneInterval :
    (IStamp.mk 2031 365 46).valid = true ∧ (IStamp.mk 2031 364 47).valid = true ∧
    (364 : Nat) < lastDayOf 2031 ∧ (IStamp.mk 2032 366 47).valid = true ∧ 366 = lastDayOf 2032 ∧
    (IStamp.mk 2099 365 47).valid = true := by decide

theorem witness_IgnoredEdgesAndStraysMakeNoClose :
    (edgeAt 1739999 .locked).mark.lowCheck = some 0 ∧
    (edgeAt 1739999 .locked).mark.clock = some 1739999 ∧
    (edgeAt 1739999 .locked).mark.stuck = false ∧ (edgeAt 1739999 .locked).mark.holdOff = none ∧
    (edgeAt 1739999 .locked).mark.sync = .locked ∧
    (withMark { (edgeAt 0 .locked).mark with holdOff := some 1 } running).mark.holdOff.isSome =
      true := by decide

theorem witness_AcceptedEdgeClosesTheInterval :
    (edgeAt 1740000 .locked).mark.lowCheck = some 0 ∧
    (edgeAt 1740000 .locked).mark.calendar = some ⟨2031, 200, 8⟩ ∧
    (edgeAt 1740000 .locked).mark.stuck = false ∧ (edgeAt 1740000 .locked).mark.holdOff = none ∧
    (edgeAt 1740000 .locked).mark.sync = .locked ∧ (edgeAt 0 .realigning).mark.sync = .realigning ∧
    (edgeAt 0 .realigning).loader.station = .recording ∧
    (withStation .aligning (edgeAt 7 .locked)).loader.station = .aligning ∧
    (withStation .aligning (edgeAt 7 .locked)).mark.clock = some 7 := by decide

/-- Both sides of 900,000 ms, where the signed offset changes sign (R31). -/
theorem test_offset_halves : signedOffset 900000 = 900000 ∧ signedOffset 899999 = -899999 := by decide

theorem witness_LineChangesDriveTheLineTimers :
    running.loader.station ≠ .loading ∧ running.pins.markLow = false ∧
    running.mark.stuck = false ∧ running.mark.pulse = none ∧
    (withMark { running.mark with stuck := true } running).mark.stuck = true ∧
    ({ running with pins := { running.pins with markLow := true } } : State).pins.markLow =
      true := by decide

def withCondition (c : ArchiveCondition) (s : State) : State :=
  { s with arch := { s.arch with condition := c } }

/-- Before mount, and behind an operation in flight in each condition. -/
theorem witness_LineStatusChangesWithItsEvent :
    (markLow unmounted).arch.condition = .notMounted ∧ (markLow unmounted).arch.service = false ∧
    (markLow unmounted).arch.queue.length < 16 ∧ (markLow unmounted).arch.reads = [] ∧
    (markLow unmounted).arch.opening = none ∧ (markLow unmounted).mark.stuckTimer = some 0 ∧
    (busy (markLow running)).arch.activity ≠ .idle ∧ (busy running).arch.condition = .ready ∧
    (busy (withCondition .blocked running)).arch.condition = .blocked ∧
    (busy (withCondition .fault running)).arch.condition = .fault ∧
    (withMark { running.mark with stuck := true, recovery := some 0 } unmounted).mark.recovery =
      some 0 := by decide

theorem witness_BoundaryClosesTheMinute :
    running.mark.clock = some 0 ∧ running.mark.boundary ≤ 29 ∧
    (withStation .aligning running).loader.station ≠ .recording ∧
    running.port.openMin = some ⟨0, 0⟩ ∧ running.mark.calendar = some ⟨2031, 200, 8⟩ ∧
    running.exch.minutes = [] ∧
    (newPending ⟨⟨2031, 200, 8⟩, 0⟩ running.localPlant (minuteResults true running) false
      running).complete running.cfg = true ∧
    (newPending ⟨⟨2031, 200, 8⟩, 0⟩ following.localPlant (minuteResults true following) false
      following).complete following.cfg = false ∧
    (minute 0).complete following.cfg = false ∧ (minute 0).deadlineMark = false ∧
    (∀ ch, (running.cfg.chans.get ch).publish = false) := by decide

/-- R58, R61: a third minute resolves the head and waits behind the second. -/
theorem test_boundary_forces : after .minuteBoundary (withMinutes [minute 28, minute 29] following)
    (fun t => t.exch.minutes.map (·.stamp.slot) == [29, 0] &&
      t.exch.history == [⟨⟨2031, 200, 8⟩, 28⟩]) = true := by decide

/-! ### Frames -/

/-- A TIME frame of station 31 at 1,700,000 ms into (2031, 200, 8). -/
def timeFrame : RxFrame := frame 31 0 (be 2 2031 ++ be 2 200 ++ [8] ++ be 3 1700000)

def summaryFrame : RxFrame := frame 31 0 (be 2 2031 ++ be 2 200 ++ [8] ++ List.replicate 66 0)

theorem witness_FramesAdoptTheCalendar :
    (withStation .unsynced running).bus.joined = some ⟨4, 0⟩ ∧
    timeFrame.source ≠ 0 ∧ timeFrame.source.toNat ≠ 4 ∧ timeFrame.dest = 0 ∧
    (readIStamp timeFrame.payload 0).valid = true ∧ timeFrame.payload.length = 8 ∧
    field timeFrame.payload 5 3 ≤ 1799999 ∧ summaryFrame.payload.length = 71 ∧
    (readIStamp summaryFrame.payload 0).valid = true ∧
    after (.timeFrame timeFrame) (withStation .unsynced running)
      (fun t => t.loader.station != .halted) = true := by decide

/-- Adopted a year before the OPEN one, the calendar halts the station. -/
theorem witness_FramesAdoptTheCalendar_halted :
    after (.timeFrame (frame 31 0 (be 2 2030 ++ be 2 200 ++ [8] ++ be 3 0)))
      (withStation .unsynced running) (fun t => t.loader.station == .halted) = true := by decide

/-- Station 7 sends its channel 2, VALID at 8,200, for slot 10. -/
def minuteMsg : MinuteMsg := ⟨⟨⟨2031, 200, 8⟩, 10⟩, .operating, [⟨2, .valid, some 8200⟩]⟩

def minuteFrame : RxFrame := frame 7 0 (minutePayload minuteMsg)

def subscribed : State :=
  { running with
    loader := { running.loader with image := some { Tests.image with subs := [⟨7, 2⟩] } }
    exch := { running.exch with entries := [ValueEntry.reset] } }

theorem witness_MinuteFrameIsTestedWhileRecording :
    minuteFrame.source ≠ 0 ∧ minuteFrame.source.toNat ≠ 4 ∧ minuteFrame.dest = 0 ∧
    minuteFrame.payload.length = 8 + 5 * field minuteFrame.payload 7 1 ∧
    readMinute minuteFrame.payload = some minuteMsg ∧
    readMinute (minutePayload { minuteMsg with stamp := ⟨⟨2031, 200, 48⟩, 10⟩ }) = none ∧
    subscribed.cfg.subs = [⟨7, 2⟩] ∧ subscribed.cfg.plantSource = none ∧
    subscribed.exch.entries = [ValueEntry.reset] ∧ subscribed.exch.minutes = [] ∧
    subscribed.exch.history = [] := by decide

theorem witness_HeldForAtMostH :
    ∃ e : ValueEntry, e.lastValid = some ⟨⟨⟨2031, 200, 8⟩, 9⟩, 18000⟩ ∧ e.age = 0 :=
  ⟨{ ValueEntry.reset with lastValid := some ⟨⟨⟨2031, 200, 8⟩, 9⟩, 18000⟩ }, rfl, rfl⟩

theorem witness_DeadlineResolvesTheHead :
    (withMinutes [minute 0] running).exch.minutes = [minute 0] ∧
    (minute 0).deadline = some 5000 ∧ (minute 0).last = false ∧
    ({ minute 0 with last := true } : PendingMinute).last = true ∧
    ([⟨⟨2031, 200, 8⟩, Eight.fill false, some ⟨.expiry, 0, 1800000, false, false, false⟩⟩] :
      List IntervalEntry).length = 1 := by decide

/-! ### Normalization, intervals, days -/

theorem witness_PressureFactor :
    (∃ cfg : ChannelCfg, cfg.basisT = false ∧ cfg.basisDry = false ∧ cfg.basisO2 = false ∧
      cfg.basisP = true ∧ 19534 * 1266563 < 9999998000000) ∧
    (11000 : Nat) ≤ 20000 ∧ (19000 : Nat) ≤ 20000 ∧ (9999999 : Nat) ≤ 9999999 :=
  ⟨⟨{ blankChannel with basisP := true }, by decide⟩, by decide⟩

theorem witness_PlantClassOfAnInterval :
    (1 : Nat) ≤ 50 ∧ 50 ≤ 100 ∧ 1 ≤ 30 ∧ 15 + 9 + 6 = 30 := by decide

theorem witness_AccumulatorsAgree :
    (∀ c, (IntervalAcc.cleared.chans.get c).v ≤ (IntervalAcc.cleared.chans.get c).considered ∧
      (IntervalAcc.cleared.chans.get c).considered ≤ IntervalAcc.cleared.minutes) ∧
    IntervalAcc.cleared.operating + IntervalAcc.cleared.transition +
      IntervalAcc.cleared.standstill = IntervalAcc.cleared.minutes := by decide

def accWith (considered v : Nat) (sum : Int) : ChanAcc :=
  { ChanAcc.cleared with considered := considered, v := v, vSum := sum, anyValid := v, anySum := sum }

/-- v is C × Q / 100 exactly, and one below; a temperature sum at the bottom of the range. -/
theorem witness_ValidatedValueIsAtMostTheAverage :
    (0 : Int) ≤ 33695 ∧ blankChannel.cip = 0 ∧
    ({ blankChannel with limA := 60000, limB := 10000 } : ChannelCfg).limB ≤ 60000 ∧
    (accWith 30 15 7).considered * 50 ≤ 100 * (accWith 30 15 7).v ∧ 1 ≤ (accWith 30 15 7).v ∧
    100 * (accWith 30 14 7).v < (accWith 30 14 7).considered * 50 ∧
    ({ blankChannel with kind := .temperature } : ChannelCfg).kind ≠ .pollutant ∧
    (-40000 : Int) * (4 : Nat) ≤ (accWith 30 4 (-160000)).vSum := by decide

/-- R92: among equal counts the first in the order is named. -/
theorem test_dominant : (⟨2, 3, 3, 0, 3, 1⟩ : Tally).dominant = .check ∧
    (⟨0, 0, 0, 0, 0, 1⟩ : Tally).dominant = .refLost := by decide

def storedBand : StoredInterval := ⟨.operating, Eight.fill (some (.band, 29695))⟩

theorem witness_YearCountsStayInStep :
    (∀ cls v, storedBand.chans.get 0 = some (cls, v) → cls ≠ .notAssessed ∧ cls ≠ .valid) ∧
    (YearCounters.cleared.chans.get 0).valid + (YearCounters.cleared.chans.get 0).invalid =
      (YearCounters.cleared.chans.get 0).operating := by
  refine ⟨fun cls v h => ?_, by decide⟩
  cases h
  decide

/-- An interval whose notice has come, its day held. -/
def ending (stamp : IStamp) : State :=
  let s := busy running
  { s with eng := { s.eng with
      held := some stamp.toDay
      intervals := [⟨stamp, Eight.fill false, some ⟨.expiry, 0, 1800000, false, false, false⟩⟩] } }

/-- The last interval of a day and of a year; the operation in flight holds the jobs in the queue. -/
theorem witness_YearCountsStayInStep_end :
    (ending ⟨2031, 200, 47⟩).eng.held = some (IStamp.mk 2031 200 47).toDay ∧
    (ending ⟨2031, 200, 46⟩).arch.condition = .ready ∧
    (ending ⟨2031, 200, 46⟩).arch.activity ≠ .idle ∧
    (ending ⟨2031, 200, 46⟩).arch.queue.length ≤ 4 ∧
    200 ≠ lastDayOf 2031 ∧ 365 = lastDayOf 2031 := by decide

/-- R101, R109: the last interval of 2031 brings its record, the day's, nine summaries and the year-end
job. -/
theorem test_year_close :
    (intervalEnd (ending ⟨2031, 365, 47⟩)).arch.queue.length = 12 ∧
    (intervalEnd (ending ⟨2031, 365, 47⟩)).arch.queue.getLast? = some (.yearEnd 2031 2032) ∧
    (intervalEnd (ending ⟨2031, 365, 47⟩)).eng.held = some ⟨2032, 1⟩ := by decide +kernel

/-! ### Checks -/

def checkFrame : RxFrame := frame 31 4 [0x01, byte 1]

theorem witness_AcceptedCheckStarts :
    running.bus.joined = some ⟨4, 0⟩ ∧ checkFrame.source ≠ 0 ∧ checkFrame.source.toNat ≠ 4 ∧
    checkFrame.dest ≠ 0 ∧ checkFrame.dest.toNat = 4 ∧ checkFrame.payload = [0x01, byte 1] ∧
    running.cfg.valveUsed .one 1 = true ∧ running.chk.current = none ∧ running.chk.queue = [] ∧
    running.port.openMin.isSome = true := by decide

theorem witness_SettleExpiryEntersMeasure :
    (checking (.settle 0)).chk.current = some ⟨⟨.one, 1⟩, .settle 0⟩ := by decide

/-- A locked channel, one that the check does not measure (R119), and a measured one with its entry, with
fewer than ten words and with ten. -/
theorem witness_MeasureExpiryEntersPurge :
    (checking (.measure 0)).chk.current = some ⟨⟨.one, 1⟩, .measure 0⟩ ∧
    ((checking (.measure 0)).cfg.measuredChans ⟨.one, 1⟩).contains 0 = true ∧
    ((checking (.measure 0)).cfg.measuredChans ⟨.one, 1⟩).contains 1 = false ∧
    ((checking (.measure 0)).cfg.chans.get 0).onPath .one = true ∧
    ((checking (.measure 0)).cfg.chans.get 0).valveEntry 1 = some ⟨1, .zero, 0⟩ ∧
    ((checking (.measure 0)).chk.acc.get 0).n < 10 ∧ CheckKind.span ≠ .zero ∧
    DriftPair.locked ⟨⟨0, 0, false⟩, ⟨10500, 0, true⟩⟩ = true := by decide

/-- spec/07's zero check of 84 words: −58 less the reference 0 moves the ZERO record alone. -/
theorem test_zero_check :
    after .measureExpiry
      { checking (.measure 0) with chk := { (checking (.measure 0)).chk with
        acc := Eight.fill ⟨84, 8400, 0, 0, false⟩
        drift := Eight.fill ⟨⟨0, 2000, false⟩, ⟨7, 0, false⟩⟩ } }
      (fun t => t.chk.drift.get 0 == ⟨⟨0, 58, false⟩, ⟨7, 0, false⟩⟩) = true := by decide

/-- A purge whose timer runs and one whose timer has stopped with the served mark, with no pair waiting
and with one. -/
theorem witness_PurgeEnds :
    (checking (.purge (some 0) 9 false)).chk.queue = [] ∧
    (checking (.purge (some 0) 9 false)).chk.current = some ⟨⟨.one, 1⟩, .purge (some 0) 9 false⟩ ∧
    (checking (.purge none 0 true)).chk.current = some ⟨⟨.one, 1⟩, .purge none 0 true⟩ ∧
    fullChecks.chk.current = some ⟨⟨.one, 1⟩, .purge (some 0) 9 false⟩ ∧
    fullChecks.chk.queue = ⟨.one, 2⟩ :: [⟨.one, 3⟩, ⟨.two, 1⟩, ⟨.two, 2⟩] ∧
    fullChecks.port.openMin.isSome = true ∧
    (checking (.purge (some 0) 9 false)).ready .one = false ∧
    State.ready { checking (.purge (some 0) 9 false) with
      filter := ⟨⟨false, false, true, false⟩, ⟨none, none, none, none⟩⟩ } .one = true := by decide

/-- R125, R126: the ceiling of a served purge starts the next check. -/
theorem test_ceiling_starts_next : after .purgeCeiling (busy fullChecks) (fun t =>
    t.chk.current == some ⟨⟨.one, 2⟩, .settle 30000⟩ && t.chk.queue.length == 3 &&
      t.arch.queue.length == 1) = true := by decide

theorem witness_DriftResetFollowsItsTable :
    (frame 31 4 [1]).payload = [1] ∧ running.loader.station ≠ .halted ∧
    (∀ c, chanNumber c = (9 : Byte).toNat → (running.cfg.chans.get c).enable = false) ∧
    (∀ c, chanNumber c = (2 : Byte).toNat → (running.cfg.chans.get c).enable = false) ∧
    chanNumber 0 = (1 : Byte).toNat ∧ (running.cfg.chans.get 0).enable = true ∧
    (withStation .aligning running).loader.station ≠ .recording ∧
    (checking (.settle 5)).underCheck 0 = true ∧ running.underCheck 0 = false := by decide

/-! ### The archive -/

theorem witness_ProgramStoresTheRecord :
    programming.arch.activity = .programming (programOf [1, 0]) ∧
    (programOf [1, 0]).addr + 2 ≤ flashSize ∧ programming.arch.queue = [.event [1, 0]] ∧
    programming.arch.reads = [] ∧ programming.arch.opening = none ∧ programming.arch.erases = [] ∧
    flashWf programming.flash = true := by decide

def erasing (er : EraseRun) : State := withActivity (.erasing er) running

theorem witness_FailureIsAnArchiveFault :
    programming.arch.activity = .programming (programOf [1, 0]) ∧
    (programOf [1, 0]).addr + (programOf [1, 0]).data.length ≤ flashSize ∧
    (∀ a, (programOf [1, 0]).purpose ≠ .mountClose a) ∧
    (erasing ⟨2, 6, 0, 4000⟩).arch.activity = .erasing ⟨2, 6, 0, 4000⟩ ∧
    (eraseRange ⟨2, 6, 0, 4000⟩).1 + (eraseRange ⟨2, 6, 0, 4000⟩).2 ≤ flashSize := by decide

/-- A read waits beside an erase; a suspended erase; the last step of an erase in area 3. -/
theorem witness_ErasesRunYieldAndEnd :
    ({ erasing ⟨2, 6, 4, 4⟩ with arch :=
      { (erasing ⟨2, 6, 4, 4⟩).arch with reads := [⟨.fetch, 0, 96⟩] } } : State).arch.reads =
        [⟨.fetch, 0, 96⟩] ∧
    (withActivity (.suspendedHold ⟨2, 6, 4, 4⟩ 0) running).arch.activity =
      .suspendedHold ⟨2, 6, 4, 4⟩ 0 ∧
    (erasing ⟨3, 48, 9, 9⟩).arch.activity = .erasing ⟨3, 48, 9, 9⟩ ∧
    (eraseRange ⟨3, 48, 9, 9⟩).1 + (eraseRange ⟨3, 48, 9, 9⟩).2 ≤ flashSize ∧
    running.arch.table.isSome = true := by decide

/-- The slot of (2031, 200, 8) in area 0 has been read for the job at the head. -/
def slotRead : ReadReq := ⟨.job, slotAddr 0 .interval (intervalIndex ⟨2031, 200, 8⟩), 96⟩

def jobWaiting : State :=
  withActivity (.reading slotRead) (withJobs [.interval ⟨2031, 200, 8⟩ []] running)

theorem witness_JobProgramsOnlyAnErasedSlot :
    jobWaiting.arch.activity = .reading slotRead ∧ slotRead.addr + slotRead.len ≤ flashSize ∧
    jobWaiting.arch.queue = [.interval ⟨2031, 200, 8⟩ []] ∧
    jobWaiting.arch.openArea = some (0, ⟨.opened, some 2031, some 4, false⟩) ∧
    jobWaiting.arch.reads = [] ∧ jobWaiting.arch.opening = none ∧
    jobWaiting.arch.service = true ∧ jobWaiting.arch.condition = .ready ∧
    jobWaiting.arch.nextEvent < 2048 ∧
    slotState (flashReadBytes jobWaiting.flash slotRead.addr slotRead.len) = .erased ∧
    slotState [0x01, 0x00] ≠ .erased := by decide +kernel

/-- Day, summary and event jobs of the OPEN year, and slots found COMMITTED and TORN. -/
theorem witness_JobProgramsOnlyAnErasedSlot_kinds :
    (withJobs [.day ⟨2031, 200⟩ [1, 0]] jobWaiting).arch.queue = [.day ⟨2031, 200⟩ [1, 0]] ∧
    (withJobs [.summary 2031 8 [1, 0]] jobWaiting).arch.queue = [.summary 2031 8 [1, 0]] ∧
    (withJobs [.event [1, 0]] jobWaiting).arch.queue = [.event [1, 0]] ∧
    jobWaiting.arch.nextEvent + 1 < 2048 ∧ jobWaiting.arch.jobFound = false ∧
    slotState [0x01, 0x00] = .committed ∧ slotState [0x01, 0xFF] = .torn := by decide

theorem witness_OperationOutsideTheDeviceFaults :
    flashSize < 0x7FFFFF + 2 ∧
    (withActivity (.reading ⟨.fetch, 0x7FFFFF, 2⟩) running).arch.activity =
      .reading ⟨.fetch, 0x7FFFFF, 2⟩ := by decide

/-- Area 1 is CLOSED for 2030. -/
def closedTable : Areas AreaEntry := table.set 1 ⟨.closed, some 2030, some 4, false⟩

def releasable : State :=
  let s := busy running
  { s with arch := { s.arch with table := some closedTable } }

theorem witness_AcceptedReleaseJoinsTheLists :
    (frame 31 4 (be 2 2030)).payload.length = 2 ∧ releasable.arch.activity = reading ∧
    releaseOutcome (field (be 2 2030) 0 2) releasable.arch = .accepted ∧
    releasable.arch.findYear (field (be 2 2030) 0 2) =
      some (1, ⟨.closed, some 2030, some 4, false⟩) := by decide

/-- Interval slot 17,567 of 2031, the last of its section, with a count of 16. -/
def fetchPayload : List Byte := be 2 2031 ++ [0] ++ be 2 17567 ++ [16]

theorem witness_AcceptedFetchRequestsItsRead :
    (frame 31 4 fetchPayload).payload.length = 6 ∧ running.arch.activity = .idle ∧
    running.arch.reads = [] ∧ running.bus.queue.length < 12 ∧
    fetchOutcome (field fetchPayload 0 2) (field fetchPayload 2 1) (field fetchPayload 5 1)
      running.arch = .accepted ∧
    running.arch.findYear (field fetchPayload 0 2) =
      some (0, ⟨.opened, some 2031, some 4, false⟩) ∧
    recordKindOf (field fetchPayload 2 1) = some .interval ∧
    field fetchPayload 3 2 < sectionSlots .interval := by decide

def fetchAt (n : Nat) : FetchState :=
  { requester := 31, request := fetchPayload, area := 0, year := 2031, kind := .interval, next := n
    left := 3, sent := 13, timer := 9000, reading := false }

def fetching (n : Nat) : State :=
  { running with arch := { running.arch with fetch := some (fetchAt n) } }

theorem witness_FetchGoesOnAndEnds :
    (fetching 17567).arch.fetch = some (fetchAt 17567) ∧ (fetchAt 17567).reading = false ∧
    (fetching 17567).bus.queue.length < 12 ∧ (fetchAt 17567).next < sectionSlots .interval ∧
    (fetching 17567).arch.areaState 0 ≠ some .erasing ∧ (fetching 17567).arch.activity = .idle ∧
    (fetching 17567).arch.reads = [] ∧ sectionSlots .interval ≤ (fetchAt 17568).next := by decide

/-- The slot's read is in flight for the fetch: the last one asked for, and one with more to follow. -/
theorem witness_FetchGoesOnAndEnds_read :
    (withActivity (.reading ⟨.fetch, 0, 96⟩) (fetching 5)).arch.activity =
      .reading ⟨.fetch, 0, 96⟩ ∧ 0 + 96 ≤ flashSize ∧
    ({ fetchAt 5 with left := 1 } : FetchState).left = 1 ∧ 2 ≤ (fetchAt 5).left ∧
    (fetchAt 5).next + 1 < sectionSlots (fetchAt 5).kind ∧
    (fetching 5).arch.areaState 0 ≠ some .erasing := by decide

def resuming (r : Resume) : State :=
  let s := busy (withStation .resuming running)
  { s with arch := { s.arch with resume := r } }

theorem witness_QueueRoomTakesTheLateRecord :
    (resuming (.submit [.event []] none)).arch.resume = .submit [.event []] none ∧
    (resuming (.submit [.event []] none)).arch.queue.length < 16 ∧
    (resuming (.submit [.event []] none)).arch.activity = reading ∧
    (resuming (.submit [.event []] none)).arch.condition = .ready := by decide

/-- A read of resumption in flight. -/
def resumeReading (r : Resume) : State :=
  let s := resuming r
  { s with arch := { s.arch with activity := .reading ⟨.resume, 0x32000, 96⟩ } }

/-- The downward search, and the current day's and an earlier day's last slot; slots found COMMITTED and
not; the stamp of slot 9,560 is (2031, 200, 8), at the calendar's. -/
theorem witness_QueueRoomTakesTheLateRecord_read :
    (resumeReading (.latest 9560)).arch.activity = .reading ⟨.resume, 0x32000, 96⟩ ∧
    (resumeReading (.latest 9560)).arch.openArea =
      some (0, ⟨.opened, some 2031, some 4, false⟩) ∧
    (resumeReading (.latest 9560)).mark.calendar = some ⟨2031, 200, 8⟩ ∧
    (resumeReading (.latest 9560)).arch.queue = [] ∧
    (resumeReading (.latest 9560)).arch.reads = [] ∧
    (resumeReading (.latest 9560)).arch.opening = none ∧
    (resumeReading (.latest 9560)).arch.erases = [] ∧
    (resumeReading (.latest 9560)).arch.service = true ∧
    (resumeReading (.latest 9560)).arch.condition = .ready ∧
    (resumeReading (.latest 9560)).arch.jobFound = false ∧
    (resumeReading (.latest 9560)).arch.nextEvent < 2048 ∧
    (⟨2031, 9560 / 48 + 1, 9560 % 48⟩ : IStamp).before ⟨2031, 200, 8⟩ = false ∧
    slotState (List.replicate 95 1 ++ [0]) = .committed ∧
    slotState (flashReadBytes (resumeReading (.latest 9560)).flash 0x32000 96) ≠ .committed ∧
    (resumeReading (.latest 9560)).lowSlot < 9560 ∧
    (IStamp.mk 2031 200 8).toDay = ⟨2031, 200⟩ ∧ (IStamp.mk 2031 200 8).toDay ≠ ⟨2031, 199⟩ ∧
    199 < lastDayOf 2031 := by decide +kernel

/-! ### The station bus -/

theorem witness_StatusIsAnswered :
    running.bus.joined = some ⟨4, 0⟩ ∧ (frame 31 4 []).source ≠ 0 ∧
    (frame 31 4 []).source.toNat ≠ 4 ∧ (frame 31 4 []).dest ≠ 0 ∧
    (frame 31 4 []).dest.toNat = 4 ∧ (frame 31 4 []).payload = [] := by decide

/-- The REPLY of the RESTART is in flight while the restart timer runs. -/
def restarting : State :=
  { running with bus := { running.bus with
      restart := some 7
      queue := [{ buildFrame 16 31 (replyPayload 15 .accepted 0 []) with
        inFlight := true, restartReply := true }] } }

theorem witness_RestartResetsInTheEnd :
    running.bus.joined = some ⟨4, 0⟩ ∧ running.bus.restart = none ∧
    restarting.bus.restart.isSome = true ∧
    (∃ g gs, restarting.bus.queue = g :: gs ∧ g.inFlight = true ∧ g.kind = 16 ∧
      g.restartReply = true) ∧
    (frame 31 4 []).payload = [] :=
  ⟨by decide, by decide, by decide, ⟨_, [], rfl, by decide⟩, by decide⟩

/-- R173: the success of that REPLY resets the station. -/
theorem test_restart_reply : after .attemptSuccess restarting (fun t =>
    t.loader == ⟨.loading, .header, none, none, none⟩ && t.bus == Bus.reset) = true := by decide

theorem witness_UnknownAndForeignFrames :
    knownKinds.contains (4 : Byte).toNat = false ∧ knownKinds.contains (17 : Byte).toNat = false ∧
    (frame 31 4 []).dest.toNat = 4 ∧ (frame 31 5 []).dest.toNat ≠ 4 ∧ (frame 31 0 []).dest = 0 := by
  decide

theorem witness_BrokenAndDuplicateFrames :
    readLine [0x80] = none ∧ (frame 4 5 []).source ≠ 0 ∧ (frame 4 5 []).source.toNat = 4 ∧
    ({ running.bus with duplicate := some 1 } : Bus).duplicate.isSome = true := by decide +kernel

def sending (f : TxFrame) : State := { running with bus := { running.bus with queue := [f] } }

def inFlight (f : TxFrame) : TxFrame := { f with inFlight := true }

theorem witness_ContentionKeepsTheFrame :
    (sending (buildFrame 1 0 [])).bus.queue = [buildFrame 1 0 []] ∧
    (∀ g ∈ [buildFrame 1 0 []], g.inFlight = false) ∧ (buildFrame 1 0 []).age < 30000 := by decide

/-- A STATUS_REPORT, a SUMMARY and a MINUTE frame of the station's own. -/
theorem witness_SuccessSendsTheFrame :
    (sending (inFlight (buildFrame 14 31 []))).bus.queue = [inFlight (buildFrame 14 31 [])] ∧
    (inFlight (buildFrame 14 31 [])).inFlight = true ∧
    (inFlight (buildFrame 14 31 [])).kind = 14 ∧
    (inFlight (buildFrame 14 31 [])).restartReply = false ∧ running.bus.fault = false ∧
    running.number ≤ 31 ∧ summaryFrame.payload.length = 71 ∧
    minuteFrame.payload.length = 8 + 5 * field minuteFrame.payload 7 1 ∧
    (readMinute minuteFrame.payload).isSome = true ∧
    (∀ p ∈ subscribed.cfg.subs, p.station ≠ subscribed.number) ∧
    subscribed.cfg.plantSource ≠ some subscribed.number := by decide

theorem witness_FailureCountsAndDrops :
    (inFlight { buildFrame 9 31 [] with failed := 6 }).failed < 7 ∧
    7 ≤ (inFlight { buildFrame 9 31 [] with failed := 7 }).failed ∧
    (inFlight (buildFrame 9 31 [])).kind ≠ 1 ∧
    (inFlight (buildFrame 1 0 [])).kind = 1 ∧
    30000 ≤ (inFlight { buildFrame 1 0 [] with age := 30000 }).age ∧
    (inFlight { buildFrame 1 0 [] with age := 29999 }).age < 30000 ∧
    ({ running.bus with failures := 30 } : Bus).failures < 31 ∧
    31 ≤ ({ running.bus with failures := 31 } : Bus).failures := by decide

theorem witness_StaleMinuteIsWithdrawn :
    (sending (buildFrame 1 0 [])).bus.queue = [buildFrame 1 0 []] ∧ (buildFrame 1 0 []).kind = 1 ∧
    (buildFrame 1 0 []).inFlight = false := by decide

theorem witness_FullQueueEvictsTheLeastUrgent :
    fullBus.queue.length = 12 ∧
    (∀ g ∈ fullBus.queue, g.inFlight = false → g.priority ≤ (buildFrame 9 31 []).priority) ∧
    (∃ g ∈ fullBus.queue, g.inFlight = false ∧ (buildFrame 1 0 []).priority < g.priority) := by
  decide

/-- The line is STUCK, and the mask names that cause alone. -/
theorem witness_AlertFollowsStateAndMask :
    State.reset.loader.station = .loading ∧ running.loader.station ≠ .loading ∧
    running.loader.station ≠ .halted ∧ running.cfg.station.mask = 0 ∧
    (withMark { running.mark with stuck := true } running).mark.stuck = true ∧
    ({ running.cfg.station with mask := 32 } : StationCfg).mask.getLsbD 5 = true := by decide

end Sys2Proof.Tests
end

section
/-! Samples and minute values: what one sample word changes and what a minute's result says
(spec/01). -/

namespace Sys2Proof.Machine

/-! ## Taking a word (R3 to R5, R118) -/

/-- A word that is not taken changes nothing (R3, tests 1 and 2). -/
theorem exec_sampleWord_discarded {s : State} {w : BitVec 24}
    (h : s.loader.station ≠ .recording ∨ (s.cfg.chans.get (wordChannel w)).enable = false) :
    exec (.sampleWord w) s = .next s := by
  show execSampleWord w s = .next s
  have hd : (s.recording && (s.cfg.chans.get (wordChannel w)).enable) = false := by
    rcases h with h | h <;> simp [State.recording, h]
  rw [execSampleWord, hd, if_neg Bool.false_ne_true]

/-- A word that passes tests 1 and 2 of R3 is taken for its channel. -/
theorem exec_sampleWord_taken {s : State} {w : BitVec 24} (hr : s.loader.station = .recording)
    (he : (s.cfg.chans.get (wordChannel w)).enable = true) :
    exec (.sampleWord w) s = .next (takeWord (wordChannel w) (wordStatus w) (wordCode w) s) := by
  show execSampleWord w s = _
  rw [execSampleWord, if_pos (by simp [State.recording, hr, he])]

/-- Off a check the word is counted and accumulated in its channel's accumulator alone. -/
theorem takeWord_accumulated {s : State} {c : Chan} (st code : Nat) (h : s.underCheck c = false) :
    takeWord c st code s = { s with port := { s.port with
      acc := s.port.acc.modify c fun a => a.countWord.accumulate st code } } := by
  rw [takeWord, if_neg (by simp [h])]

/-- Under check the word is counted and excluded; the check accumulator takes it in MEASURE only. -/
theorem takeWord_excluded {s : State} {c : Chan} (st code : Nat) (h : s.underCheck c = true) :
    takeWord c st code s = { s with
      port := { s.port with acc := s.port.acc.modify c fun a => a.countWord.exclude }
      chk := if s.measuring c then
        { s.chk with acc := s.chk.acc.modify c (CheckAcc.take st code) } else s.chk } := by
  have hm : ∀ x : SamplePort, State.measuring { s with port := x } c = s.measuring c := fun _ => rfl
  rw [takeWord, if_pos h]
  dsimp only
  rw [hm]
  split <;> rfl

/-- No status touches the received-word count. -/
@[simp] theorem accumulate_words (st code : Nat) (a : MinuteAcc) :
    (a.accumulate st code).words = a.words := by
  unfold MinuteAcc.accumulate
  split
  · rfl
  · rfl
  · dsimp only; split <;> rfl

theorem accumulate_maint (code : Nat) (a : MinuteAcc) :
    a.accumulate 1 code = { a with maint := satInc 255 a.maint } := rfl

theorem accumulate_fault (code : Nat) (a : MinuteAcc) :
    a.accumulate 2 code = { a with fault := satInc 255 a.fault } := rfl

/-- An OK or OVER word joins count and sum while fewer than 120 words stand in them (R5). -/
theorem accumulate_room {st : Nat} (code : Nat) {a : MinuteAcc} (hs : st = 0 ∨ st = 3)
    (hn : a.n < 120) :
    a.accumulate st code = { a with
      n := a.n + 1, sum := a.sum + code, overRange := a.overRange || st == 3 } := by
  rcases hs with rfl | rfl <;> exact if_pos hn

/-- Beyond 120 words an OK or OVER word sets SAT in their place (R5). -/
theorem accumulate_full {st : Nat} (code : Nat) {a : MinuteAcc} (hs : st = 0 ∨ st = 3)
    (hn : 120 ≤ a.n) :
    a.accumulate st code = { a with sat := true, overRange := a.overRange || st == 3 } := by
  rcases hs with rfl | rfl <;> exact if_neg (Nat.not_lt.mpr hn)

theorem checkTake_maint (code : Nat) (k : CheckAcc) :
    k.take 1 code = { k with maint := satInc 1000 k.maint } := rfl

theorem checkTake_fault (code : Nat) (k : CheckAcc) :
    k.take 2 code = { k with fault := satInc 1000 k.fault } := rfl

/-- An OK or OVER word joins a check accumulator of fewer than 1,000 words (R118). -/
theorem checkTake_room {st : Nat} (code : Nat) {k : CheckAcc} (hs : st = 0 ∨ st = 3)
    (hn : k.n < 1000) :
    k.take st code = { k with
      n := k.n + 1, sum := k.sum + code, overRange := k.overRange || st == 3 } := by
  rcases hs with rfl | rfl <;> exact if_pos hn

/-- From 1,000 words on only the OVER flag follows a word (R118). -/
theorem checkTake_full {st : Nat} (code : Nat) {k : CheckAcc} (hs : st = 0 ∨ st = 3)
    (hn : 1000 ≤ k.n) :
    k.take st code = { k with overRange := k.overRange || st == 3 } := by
  rcases hs with rfl | rfl <;> exact if_neg (Nat.not_lt.mpr hn)

/-- Settles O15: a discarded word leaves the state, an accumulated one goes by its converter status. -/
theorem wordIsDiscardedOrAccumulated : Obligations.WordIsDiscardedOrAccumulated := by
  intro s w
  refine ⟨rfl, exec_sampleWord_discarded, fun hr he hu => ?_⟩
  refine ⟨_, s.port.acc.get (wordChannel w), exec_sampleWord_taken hr he, ?_⟩
  rw [takeWord_accumulated _ _ hu]
  refine ⟨rfl, rfl, fun c hc => by simp [hc], rfl, ?_⟩
  simp only [eight_get_modify, if_true]
  refine ⟨accumulate_words .., fun hs => ?_, fun hs => ?_,
    fun hs hn => accumulate_room _ hs hn, fun hs hn => accumulate_full _ hs hn⟩
  · rw [hs]; exact accumulate_maint ..
  · rw [hs]; exact accumulate_fault ..

/-- Settles O16: under check the minute accumulator counts the word as excluded, whatever its status;
the check accumulator goes by the converter status. -/
theorem wordUnderCheckIsExcluded : Obligations.WordUnderCheckIsExcluded := by
  intro s w hr he hu
  refine ⟨_, s.port.acc.get (wordChannel w), s.chk.acc.get (wordChannel w),
    exec_sampleWord_taken hr he, rfl, ?_⟩
  rw [takeWord_excluded _ _ hu]
  refine ⟨rfl, by simp [MinuteAcc.exclude, MinuteAcc.countWord], fun c hc => by simp [hc], ?_⟩
  cases hm : s.measuring (wordChannel w)
  · exact ⟨rfl, rfl, rfl, fun _ => rfl, rfl, fun _ _ => rfl, fun h => absurd h Bool.false_ne_true⟩
  · refine ⟨rfl, rfl, rfl, fun h => absurd h.symm Bool.false_ne_true, rfl, fun c hc => by simp [hc],
      fun _ => ?_⟩
    simp only [if_true, eight_get_modify]
    refine ⟨fun hs => ?_, fun hs => ?_, checkTake_room _, checkTake_full _⟩
    · rw [hs]; exact checkTake_maint ..
    · rw [hs]; exact checkTake_fault ..

/-! ## Minute results (R11 to R18) -/

/-- A drift-locked channel's minute is invalid, and any other with sMin samples is VALID (R15, R16). -/
theorem minuteStatus_valid (sMin : Nat) (locked : Bool) (a : MinuteAcc) :
    minuteStatus sMin locked a = .valid ↔ locked = false ∧ sMin ≤ a.n := by
  unfold minuteStatus
  cases locked
  · by_cases hn : sMin ≤ a.n
    · simp [hn]
    · simp only [Bool.false_eq_true, if_false, hn, and_false, iff_false]
      repeat' split
      all_goals exact MinuteStatus.noConfusion
  · simp

/-- LOWRATE is the slow full minute's flag (R17). -/
theorem minuteResult_lowRate (cfg : ChannelCfg) (cal : CalSet) (locked full : Bool) (a : MinuteAcc) :
    (minuteResult cfg cal locked full a).flags.lowRate = true ↔
      full = true ∧ a.words < cfg.expected := by
  simp [minuteResult]

/-- The value of a minute is the calibrated value brought into the range of its kind (R11, R12). -/
theorem minuteResult_value (cfg : ChannelCfg) (cal : CalSet) (locked full : Bool) (a : MinuteAcc) :
    (minuteResult cfg cal locked full a).value =
      if a.n = 0 then none
      else some (clampInt (lowLimit cfg.kind) 9999999 (calibrate cal a.n a.sum)) := by
  show (rawValue cal a).map _ = _
  unfold rawValue
  split <;> rfl

theorem lowLimit_le (kind : Kind) : lowLimit kind ≤ 9999999 := by
  cases kind <;> decide

/-- The interval accumulator's flags join the minute's (R90). -/
theorem chanAcc_take_flags (kind : Kind) (st : PlantState) (r : MinuteResult) (acc : ChanAcc) :
    (acc.take kind st r).flags = acc.flags.or r.flags := by
  have hs : (acc.takeStatus kind st r).flags = acc.flags := by
    unfold ChanAcc.takeStatus
    split
    · dsimp only; split <;> rfl
    · split <;> rfl
  show (acc.takeStatus kind st r).flags.or r.flags = _
  rw [hs]

theorem flagBit_eq (b : Bool) (k : Nat) : flagBit b k = b.toNat * 2 ^ k := by
  cases b <;> simp [flagBit]

/-- LOWRATE is bit 4 of the record's flags byte (R197): the flags above it are multiples of 32, those
below it sum to at most 15. -/
theorem recordByte_lowRate (f : MFlags) (sw : Bool) (h : f.lowRate = true) :
    f.recordByte sw / 16 % 2 = 1 := by
  have hheld := f.held.toNat_le
  have hclamp := f.hClamp.toNat_le
  have hcap := f.o2Cap.toNat_le
  have hsw := sw.toNat_le
  simp only [MFlags.recordByte, flagBit_eq, h, Bool.toNat_true]
  omega

/-- Settles O17: LOWRATE is set by the received-word count of a full minute alone, and goes on into the
flags of the interval. -/
theorem lowRateMarksSlowFullMinutes : Obligations.LowRateMarksSlowFullMinutes := by
  intro cfg cal locked full a
  refine ⟨minuteResult_lowRate .., fun _ => rfl,
    fun hl hn => (minuteStatus_valid ..).mpr ⟨hl, hn⟩, fun r kind st acc sw hr => ?_⟩
  have ht : (acc.take kind st r).flags.lowRate = true := by
    rw [chanAcc_take_flags, MFlags.or, hr, Bool.or_true]
  exact ⟨ht, recordByte_lowRate _ sw ht⟩

/-- Settles O18: a value is absent exactly without a sample, and is limited to its range. -/
theorem minuteValuesLieInRange : Obligations.MinuteValuesLieInRange := by
  rintro cfg cal locked full a r rfl hmin
  rw [minuteResult_value]
  refine ⟨fun hv => ?_, fun v hv => ?_, by simp⟩
  · obtain ⟨hl, hn⟩ := (minuteStatus_valid ..).mp hv
    rw [if_neg (by omega)]
    exact ⟨rfl, hl, hn⟩
  · split at hv
    · cases hv
    · cases hv
      exact clampInt_mem _ _ _ (lowLimit_le cfg.kind)

end Sys2Proof.Machine
end

section
/-! The close of an interval by own expiry and by an accepted edge (spec/03, R31 to R38, R48). -/

namespace Sys2Proof.Machine

/-! ## What an interval close does in each station state (R31, R48) -/

/-- While RECORDING the close is a recorded one. -/
theorem closeInterval_recording {s : State} {stamp : IStamp} (kind : CloseKind) (o : Int) (n : Nat)
    (hc : s.mark.calendar = some stamp) (hr : s.loader.station = .recording) :
    closeInterval kind o n s =
      closeRecorded stamp stamp.advance (closeNotice kind o n s.mark.stuck)
        { s with mark := s.mark.close kind stamp.advance } := by
  unfold closeInterval; rw [hc]; dsimp only; rw [hr]

/-- In ALIGNING the close makes the station RECORDING. -/
theorem closeInterval_aligning {s : State} {stamp : IStamp} (kind : CloseKind) (o : Int) (n : Nat)
    (hc : s.mark.calendar = some stamp) (ha : s.loader.station = .aligning) :
    closeInterval kind o n s =
      closeAligning stamp stamp.advance { s with mark := s.mark.close kind stamp.advance } := by
  unfold closeInterval; rw [hc]; dsimp only; rw [ha]

/-- Outside ALIGNING a close leaves the MARK status and the stray count. -/
theorem closeInterval_sync {s : State} (kind : CloseKind) (o : Int) (n : Nat)
    (ha : s.loader.station ≠ .aligning) :
    (closeInterval kind o n s).mark.sync = s.mark.sync ∧
      (closeInterval kind o n s).mark.strays = s.mark.strays := by
  unfold closeInterval
  split
  · exact ⟨rfl, rfl⟩
  · dsimp only
    split
    · simp [MarkUnit.close]
    · exact absurd ‹_› ha
    · exact ⟨rfl, rfl⟩

/-- What a close taken at a clock value leaves while RECORDING, whatever the Mark Unit has done since
`s`. -/
theorem closeInterval_recorded {s : State} {m : MarkUnit} {stamp : IStamp} (kind : CloseKind)
    (o : Int) (n : Nat) (hc : m.calendar = some stamp) (hr : s.loader.station = .recording) :
    RecordedClose s (closeInterval kind o n { s with mark := m }) stamp
      (closeNotice kind o n m.stuck) := by
  rw [closeInterval_recording (s := { s with mark := m }) kind o n hc hr]
  exact closeRecorded_spec s _ stamp _ hr rfl rfl rfl rfl rfl rfl

/-- The held day's close leaves the interval list (R102 to R109). -/
@[simp] theorem closeHeldDay_intervals (s : State) :
    (closeHeldDay s).eng.intervals = s.eng.intervals := by
  unfold closeHeldDay
  split
  · rfl
  · dsimp only
    split
    · simp [closeYear, Engine.closeDay]
    · rfl

/-- What the close in ALIGNING leaves (R48): the station RECORDING and LOCKED without strays, slot 0 open
at 0, the interval list ending in the one that starts, the pending minutes as they stood. -/
structure AligningClose (s t : State) (start : IStamp) : Prop where
  loader : t.loader = { s.loader with station := .recording }
  sync : t.mark.sync = .locked
  strays : t.mark.strays = 0
  slot : t.port.openMin = some ⟨0, 0⟩
  intervals : ∃ sw, t.eng.intervals = s.eng.intervals ++ [⟨start, sw, none⟩]
  minutes : t.exch.minutes = s.exch.minutes

/-- The start of an interval by a station that RECORDS, LOCKED without strays, after other blocks have
left its interval list and its pending minutes. -/
theorem startInterval_aligned {s u : State} (start : IStamp)
    (hl : u.loader = { s.loader with station := .recording }) (hs : u.mark.sync = .locked)
    (ht : u.mark.strays = 0) (hi : u.eng.intervals = s.eng.intervals)
    (hm : u.exch.minutes = s.exch.minutes) : AligningClose s (startInterval start u) start := by
  obtain ⟨hslot, -, hexch, heng⟩ := startInterval_spec start u
  exact
    { loader := by simpa using hl
      sync := by simpa using hs
      strays := by simpa using ht
      slot := hslot
      intervals := ⟨switchSet start u, by rw [heng, hi]⟩
      minutes := by rw [hexch, ← hm]; rfl }

theorem closeAligning_spec (closing start : IStamp) (s : State) :
    AligningClose s (closeAligning closing start s) start := by
  unfold closeAligning
  dsimp only
  split <;> apply startInterval_aligned <;> simp

/-- What a close taken in ALIGNING leaves, whatever the Mark Unit has done since `s`. -/
theorem closeInterval_aligned {s : State} {m : MarkUnit} {stamp : IStamp} (kind : CloseKind)
    (o : Int) (n : Nat) (hc : m.calendar = some stamp) (ha : s.loader.station = .aligning) :
    AligningClose s (closeInterval kind o n { s with mark := m }) stamp.advance := by
  rw [closeInterval_aligning (s := { s with mark := m }) kind o n hc ha]
  obtain ⟨hl, hs, ht, ho, hi, hm⟩ := closeAligning_spec stamp stamp.advance
    { s with mark := m.close kind stamp.advance }
  exact ⟨hl, hs, ht, ho, hi, hm⟩

/-- A station LOCKED without strays is so after any close. -/
theorem closeInterval_locked {s : State} {stamp : IStamp} (kind : CloseKind) (o : Int) (n : Nat)
    (hc : s.mark.calendar = some stamp) (hy : s.mark.sync = .locked) (ht : s.mark.strays = 0) :
    (closeInterval kind o n s).mark.sync = .locked ∧
      (closeInterval kind o n s).mark.strays = 0 := by
  by_cases ha : s.loader.station = .aligning
  · have hclose := closeInterval_aligned (m := s.mark) kind o n hc ha
    exact ⟨hclose.sync, hclose.strays⟩
  · obtain ⟨hsync, hstrays⟩ := closeInterval_sync kind o n ha
    exact ⟨hsync.trans hy, hstrays.trans ht⟩

/-! ## Own expiry (R32) -/

/-- The running clock's expiry closes the interval at 1,800,000 ms. -/
theorem exec_ownExpiry {s : State} {c : Nat} (hc : s.mark.clock = some c) :
    exec .ownExpiry s = .next (closeInterval (expiryKind s) 0 1800000 s) := by
  show execOwnExpiry s = _
  unfold execOwnExpiry
  rw [hc]
  rfl

/-- The close at own expiry is SILENT while REALIGNING on a NORMAL line, outside ALIGNING; otherwise it
is EXPIRY (R32). -/
theorem expiryKind_eq (s : State) : expiryKind s =
    if s.mark.stuck = false ∧ s.loader.station ≠ .aligning ∧ s.mark.sync = .realigning then .silent
    else .expiry := by
  unfold expiryKind
  cases s.mark.stuck
  · by_cases ha : s.loader.station = .aligning
    · simp [ha]
    · simp [ha]
  · simp

/-- Settles O21: own expiry is a close of a full interval, of the kind R32 gives it. -/
theorem ownExpiryClosesTheInterval : Obligations.OwnExpiryClosesTheInterval := by
  intro s c stamp hclock hcal
  obtain ⟨hzero, hboundary, hstart, hhold, hpulse, hlast, -⟩ :=
    closeInterval_mark (expiryKind s) 0 1800000 hcal
  refine ⟨_, exec_ownExpiry hclock, hzero, hboundary, hhold, hstart, fun hk => ?_, fun hst ha hy => ?_,
    fun ha => ?_, fun hr => ?_, hlast, by simp, by simp, by simp⟩
  · have hkind : expiryKind s = .expiry := by
      rw [expiryKind_eq, if_neg]
      rintro ⟨h1, h2, h3⟩
      rcases hk with h | h | h
      · exact Bool.noConfusion (h.symm.trans h1)
      · exact h2 h
      · exact h h3
    rw [hpulse, if_pos hkind]
  · have hkind : expiryKind s = .silent := by rw [expiryKind_eq, if_pos ⟨hst, ha, hy⟩]
    rw [hpulse, if_neg (by rw [hkind]; decide)]
    exact ⟨rfl, (closeInterval_sync _ _ _ ha).1.trans hy⟩
  · obtain ⟨hloader, hsync, hstrays, hslot, hlist, hminutes⟩ :=
      closeInterval_aligned (m := s.mark) (expiryKind s) 0 1800000 hcal ha
    exact ⟨hloader, hsync, hstrays, hslot, hlist, hminutes⟩
  · have hkind : expiryKind s =
        if s.mark.stuck = false ∧ s.mark.sync = .realigning then .silent else .expiry := by
      rw [expiryKind_eq]; simp [hr]
    have hclose := closeInterval_recorded (m := s.mark) (expiryKind s) 0 1800000 hcal hr
    have hnotice : closeNotice (expiryKind s) 0 1800000 s.mark.stuck =
        ⟨expiryKind s, 0, 1800000, false, false, s.mark.stuck⟩ := by
      rw [hkind]; unfold closeNotice; split <;> rfl
    rw [hnotice, hkind] at hclose
    rw [hkind]
    exact hclose

/-! ## Edges (R34, R37, R38, R48) -/

/-- An edge taken on a NORMAL line with the clock running and no hold-off is acted on. -/
theorem exec_lowCheckExpiry_acts {s : State} {n c : Nat} (hl : s.mark.lowCheck = some n)
    (hc : s.mark.clock = some c) (hs : s.mark.stuck = false) (hh : s.mark.holdOff = none) :
    exec .lowCheckExpiry s = .next (actEdge c { s with mark := { s.mark with lowCheck := none } }) := by
  show execLowCheckExpiry s = _
  unfold execLowCheckExpiry
  rw [hl]
  dsimp only
  rw [hc]
  dsimp only
  rw [hs, hh]
  rfl

/-- In ALIGNING every edge is accepted, as EDGE (R48). -/
theorem actEdge_aligning {s : State} (c : Nat) (ha : s.loader.station = .aligning) :
    actEdge c s = acceptEdge .edge c s := by
  rw [actEdge, if_pos ha]

/-- Outside ALIGNING an edge is accepted at 1,740,000 ms or later while LOCKED, and at any value while
REALIGNING (R37, R38). -/
theorem actEdge_accepted {s : State} {c : Nat} (ha : s.loader.station ≠ .aligning)
    (h : (s.mark.sync = .locked ∧ 1740000 ≤ c) ∨ s.mark.sync = .realigning) :
    actEdge c s = acceptEdge (if s.mark.sync = .realigning then .realign else .edge) c s := by
  rw [actEdge, if_neg ha]
  rcases h with ⟨hy, hv⟩ | hy
  · rw [hy]; exact if_pos hv
  · rw [hy]; rfl

/-- The Mark Unit's part of an accepted edge: LOCKED, no strays, the signed offset kept. -/
def MarkUnit.accept (offset : Int) (m : MarkUnit) : MarkUnit :=
  { m with lowCheck := none, sync := .locked, strays := 0, lastOffset := some offset }

/-- An accepted edge is a close with its signed offset after the Mark Unit's part. -/
theorem acceptEdge_eq (kind : CloseKind) (c : Nat) (s : State) :
    acceptEdge kind c { s with mark := { s.mark with lowCheck := none } } =
      closeInterval kind (signedOffset c) c { s with mark := s.mark.accept (signedOffset c) } := rfl

/-- What an accepted edge leaves of the Mark Unit, whatever the station state. -/
structure EdgeClosed (s t : State) (start : IStamp) (offset : Int) : Prop where
  clock : t.mark.clock = some 0
  calendar : t.mark.calendar = some start
  holdOff : t.mark.holdOff = some 1000
  sync : t.mark.sync = .locked
  strays : t.mark.strays = 0
  pulse : t.mark.pulse = s.mark.pulse
  lastOffset : t.mark.lastOffset = some offset

theorem closeInterval_edge {s : State} {stamp : IStamp} {kind : CloseKind} (offset : Int) (c : Nat)
    (hcal : s.mark.calendar = some stamp) (hk : kind ≠ .expiry) :
    EdgeClosed s (closeInterval kind offset c { s with mark := s.mark.accept offset })
      stamp.advance offset := by
  have hmark := closeInterval_mark (s := { s with mark := s.mark.accept offset }) kind offset c hcal
  obtain ⟨hclock, -, hstart, hhold, hpulse, hlast, -⟩ := hmark
  obtain ⟨hsync, hstrays⟩ := closeInterval_locked (s := { s with mark := s.mark.accept offset })
    kind offset c hcal rfl rfl
  exact ⟨hclock, hstart, hhold, hsync, hstrays, by rw [hpulse, if_neg hk]; rfl, hlast⟩

/-- Settles O24: an accepted edge is a close with its signed offset. -/
theorem acceptedEdgeClosesTheInterval : Obligations.AcceptedEdgeClosesTheInterval := by
  intro s n c stamp offset hlow hclock hcal hstuck hhold hoff
  obtain rfl : offset = signedOffset c := hoff
  have hexec := exec_lowCheckExpiry_acts hlow hclock hstuck hhold
  constructor
  · intro hst hedge
    have ha : s.loader.station ≠ .aligning := by rcases hst with h | h <;> rw [h] <;> decide
    obtain ⟨kind, hkind⟩ :
      ∃ kind, kind = if s.mark.sync = .realigning then CloseKind.realign else .edge := ⟨_, rfl⟩
    have hne : kind ≠ .expiry := by rw [hkind]; split <;> decide
    rw [actEdge_accepted (s := { s with mark := { s.mark with lowCheck := none } }) ha hedge,
      acceptEdge_eq, ← hkind] at hexec
    obtain ⟨hzero, hstart, hho, hsync, hstrays, hpulse, hlast⟩ :=
      closeInterval_edge (signedOffset c) c hcal hne
    refine ⟨_, hexec, hzero, hstart, hho, hsync, hstrays, hpulse, hlast, fun hr => ?_⟩
    have hclose := closeInterval_recorded (m := s.mark.accept (signedOffset c)) kind
      (signedOffset c) c hcal hr
    have hrealign : (kind == .realign) = decide (s.mark.sync = .realigning) := by
      rw [hkind]; by_cases hy : s.mark.sync = .realigning <;> simp [hy]
    rw [closeNotice, hrealign] at hclose
    rw [← hkind, ← hstuck]
    exact hclose
  · intro ha
    rw [actEdge_aligning (s := { s with mark := { s.mark with lowCheck := none } }) c ha,
      acceptEdge_eq] at hexec
    obtain ⟨hzero, hstart, hho, hsync, hstrays, hpulse, hlast⟩ :=
      closeInterval_edge (kind := .edge) (signedOffset c) c hcal (by decide)
    obtain ⟨hloader, -, -, hslot, ⟨sw, hlist⟩, hminutes⟩ := closeInterval_aligned
      (m := s.mark.accept (signedOffset c)) .edge (signedOffset c) c hcal ha
    exact ⟨_, sw, hexec, hzero, hstart, hho, hsync, hstrays, hpulse, hlast, hloader, hslot, hlist,
      hminutes⟩

end Sys2Proof.Machine
end

section
/-! Minute boundaries (spec/01, R8) and the start of an accepted check (spec/07, R114, R116). -/

namespace Sys2Proof.Machine

/-! ## Minute boundaries (R8) -/

/-- A boundary up to the 29th sets the clock and goes to the open minute. -/
theorem exec_minuteBoundary {s : State} {c : Nat} (hc : s.mark.clock = some c)
    (hb : s.mark.boundary ≤ 29) :
    exec .minuteBoundary s = .next (boundaryMinute (60000 * s.mark.boundary)
      { s with mark := { s.mark with
          clock := some (60000 * s.mark.boundary), boundary := s.mark.boundary + 1 } }) := by
  show execMinuteBoundary s = _
  unfold execMinuteBoundary
  rw [hc]
  exact if_pos hb

theorem boundaryMinute_idle {s : State} (clock : Nat) (hr : s.loader.station ≠ .recording) :
    boundaryMinute clock s = s := by
  rw [boundaryMinute, if_neg (by simpa [State.recording] using hr)]

/-- While RECORDING the open slot closes as a full minute and the next opens. -/
theorem boundaryMinute_recording {s : State} {o : OpenMinute} {stamp : IStamp} (clock : Nat)
    (hr : s.loader.station = .recording) (ho : s.port.openMin = some o)
    (hc : s.mark.calendar = some stamp) :
    boundaryMinute clock s = openMinute (o.slot + 1) clock (closeMinute stamp o.slot true false s) := by
  rw [boundaryMinute, if_pos (by simp [State.recording, hr]), ho, hc]

/-- The check phases and the configuration settle which channels are under check. -/
theorem underCheck_congr {s t : State} (hl : t.loader = s.loader) (hc : t.chk = s.chk) :
    t.underCheck = s.underCheck := by
  funext c
  simp only [State.underCheck, State.cfg, hl, hc]

/-- An opening minute's accumulator is clear in every item, CHECKED where its path is under check
(R6, R7). -/
theorem openedAccs_get (s : State) (c : Chan) : (openedAccs s).get c =
    ⟨0, 0, 0, 0, 0, 0, false, false, (s.cfg.chans.get c).enable && s.underCheck c⟩ :=
  eight_get_build _ c

/-- A station that publishes no channel sends no MINUTE frame (R51). -/
theorem publishMinute_unpublished {s : State} (m : MStamp) (st : PlantState)
    (r : Eight (Option MinuteResult)) (h : ∀ c, (s.cfg.chans.get c).publish = false) :
    publishMinute m st r s = s := by
  have he : publishedEntries s.cfg r = [] := by simp [publishedEntries, h]
  simp [publishMinute, he]

/-- The part of a state that a closing minute's entry reads and that its publication leaves. -/
theorem newPending_publish (m : MStamp) (st : PlantState) (r : Eight (Option MinuteResult))
    (last : Bool) (s : State) :
    newPending m st r last (publishMinute m st r s) = newPending m st r last s :=
  newPending_latest _ _ _ _ (by simp) (by simp) (by simp)

@[simp] theorem publishMinute_cfg (m : MStamp) (st : PlantState) (r : Eight (Option MinuteResult))
    (s : State) : (publishMinute m st r s).cfg = s.cfg := by
  simp [State.cfg]

/-! ### The closing minute enters the pending list (R10, R58, R59, R61) -/

section closing

variable {s : State} {stamp : IStamp} {slot : Nat} {full last : Bool} {pm : PendingMinute}

/-- An incomplete minute waits as the only one; nothing but its publication happens beside it. -/
theorem closeMinute_waits
    (hp : pm = newPending ⟨stamp, slot⟩ s.localPlant (minuteResults full s) last s)
    (hm : s.exch.minutes = []) (hc : pm.complete s.cfg = false) :
    closeMinute stamp slot full last s =
      { publishMinute ⟨stamp, slot⟩ s.localPlant (minuteResults full s) s with
        exch := { s.exch with minutes := [pm] } } := by
  have he := (enterMinute_empty (s := publishMinute ⟨stamp, slot⟩ s.localPlant
    (minuteResults full s) s) (by simpa using hm) (hp.trans (newPending_publish ..).symm)).1
    (by simpa using hc)
  rw [closeMinute, he]
  simp

/-- A complete minute resolves at once. -/
theorem closeMinute_resolves
    (hp : pm = newPending ⟨stamp, slot⟩ s.localPlant (minuteResults full s) false s)
    (hm : s.exch.minutes = []) (hc : pm.complete s.cfg = true) :
    (closeMinute stamp slot full false s).exch.minutes = [] ∧
      (closeMinute stamp slot full false s).exch.history =
        (pm.stamp :: s.exch.history).take 6 ∧
      (closeMinute stamp slot full false s).eng.acc.minutes = s.eng.acc.minutes + 1 := by
  have he := (enterMinute_empty (s := publishMinute ⟨stamp, slot⟩ s.localPlant
    (minuteResults full s) s) (by simpa using hm) (hp.trans (newPending_publish ..).symm)).2
    (by simpa using hc)
  rw [closeMinute, he]
  obtain ⟨h1, h2, h3, -⟩ := resolveHead_spec
    (s := { publishMinute ⟨stamp, slot⟩ s.localPlant (minuteResults full s) s with
      exch := { (publishMinute ⟨stamp, slot⟩ s.localPlant (minuteResults full s) s).exch with
        minutes := [pm] } }) (pm := pm) (rest := []) rfl
  have h4 := (h3 (by rw [hp]; rfl)).1
  exact ⟨h1, by simpa using h2, by simpa using h4⟩

/-- Behind an incomplete head whose deadline runs, the closing minute waits. -/
theorem closeMinute_behind {q : PendingMinute} (hm : s.exch.minutes = [q])
    (hc : q.complete s.cfg = false) (hd : q.deadlineMark = false) :
    closeMinute stamp slot full last s =
      { publishMinute ⟨stamp, slot⟩ s.localPlant (minuteResults full s) s with
        exch := { s.exch with minutes :=
          [q, newPending ⟨stamp, slot⟩ s.localPlant (minuteResults full s) last s] } } := by
  rw [closeMinute, enterMinute_behind (q := q) (by simpa using hm) (by simpa using hc) hd,
    newPending_publish]
  simp

/-- In a list of two the head resolves first. -/
theorem closeMinute_forces {q r : PendingMinute} (hm : s.exch.minutes = [q, r])
    (hc : r.complete s.cfg = false) (hd : r.deadlineMark = false) :
    (closeMinute stamp slot full last s).exch.minutes =
        [r, newPending ⟨stamp, slot⟩ s.localPlant (minuteResults full s) last s] ∧
      (closeMinute stamp slot full last s).exch.history =
        (q.stamp :: s.exch.history).take 6 := by
  have he := enterMinute_full (s := publishMinute ⟨stamp, slot⟩ s.localPlant
    (minuteResults full s) s) (stamp := ⟨stamp, slot⟩) (st := s.localPlant)
    (r := minuteResults full s) (last := last) (by simpa using hm) (by simpa using hc) hd
  rw [newPending_publish] at he
  rw [closeMinute]
  simpa using he

end closing

/-- The courses of the pending list when the full minute `pm` closes within its interval (R58, R59,
R61): what its entry makes of `s`. -/
structure MinuteEntered (s t : State) (pm : PendingMinute) : Prop where
  waits : s.exch.minutes = [] → pm.complete s.cfg = false →
    t.exch = { s.exch with minutes := [pm] } ∧ t.eng = s.eng ∧ t.arch = s.arch
  resolves : s.exch.minutes = [] → pm.complete s.cfg = true →
    t.exch.minutes = [] ∧ t.exch.history = (pm.stamp :: s.exch.history).take 6 ∧
      t.eng.acc.minutes = s.eng.acc.minutes + 1
  behind : ∀ q, s.exch.minutes = [q] → q.complete s.cfg = false → q.deadlineMark = false →
    t.exch = { s.exch with minutes := [q, pm] } ∧ t.eng = s.eng ∧ t.arch = s.arch
  forces : ∀ q r, s.exch.minutes = [q, r] → r.complete s.cfg = false → r.deadlineMark = false →
    t.exch.minutes = [r, pm] ∧ t.exch.history = (q.stamp :: s.exch.history).take 6
  silent : (∀ c, (s.cfg.chans.get c).publish = false) → s.exch.minutes = [] →
    pm.complete s.cfg = false → t.bus = s.bus

theorem closeMinute_entered {s : State} {stamp : IStamp} {slot : Nat} {full : Bool}
    {pm : PendingMinute}
    (hp : pm = newPending ⟨stamp, slot⟩ s.localPlant (minuteResults full s) false s) :
    MinuteEntered s (closeMinute stamp slot full false s) pm where
  waits hm hc := by rw [closeMinute_waits hp hm hc]; simp
  resolves hm hc := closeMinute_resolves hp hm hc
  behind q hm hc hd := by rw [closeMinute_behind hm hc hd, ← hp]; simp
  forces q r hm hc hd := by rw [hp]; exact closeMinute_forces hm hc hd
  silent hu hm hc := by rw [closeMinute_waits hp hm hc, publishMinute_unpublished _ _ _ hu]

/-- The opening of the next slot and the advance of the clock leave the courses of the pending list. -/
theorem MinuteEntered.opened {s t : State} {m : MarkUnit} {pm : PendingMinute}
    (h : MinuteEntered { s with mark := m } t pm) (slot start : Nat) :
    MinuteEntered s (openMinute slot start t) pm := by
  obtain ⟨hwaits, hresolves, hbehind, hforces, hsilent⟩ := h
  exact ⟨hwaits, hresolves, hbehind, hforces, hsilent⟩

/-- Settles O27: a boundary is the close of the open slot as a full minute and the opening of the next;
the courses of the pending list are those of the minute's entry. -/
theorem boundaryClosesTheMinute : Obligations.BoundaryClosesTheMinute := by
  intro s c hclock hb
  have hexec := exec_minuteBoundary hclock hb
  refine ⟨fun hr => ?_, fun o stamp pm hr ho hcal hpm => ?_⟩
  · rwa [boundaryMinute_idle _ (by exact hr)] at hexec
  · rw [boundaryMinute_recording _ (by exact hr) (by exact ho) (by exact hcal)] at hexec
    obtain ⟨hwaits, hresolves, hbehind, hforces, hsilent⟩ := (closeMinute_entered
      (s := { s with mark := { s.mark with
        clock := some (60000 * s.mark.boundary), boundary := s.mark.boundary + 1 } })
      hpm).opened (o.slot + 1) (60000 * s.mark.boundary)
    refine ⟨_, hexec, by simp [openMinute], fun ch => ?_, by simp, by simp, by simp, by simp,
      by simp, hwaits, hresolves, hbehind, hforces, hsilent⟩
    rw [openMinute, openedAccs_get, underCheck_congr (s := s) (by simp) (by simp)]
    simp [State.cfg]

/-! ## The start of an accepted check (R114, R116, R127) -/

/-- A code used on a path, offered while RECORDING with no check in progress or waiting, is accepted. -/
theorem offerOutcome_accepted {s : State} {n valve : Nat} {p : Path} (hp : pathOf n = some p)
    (hv : s.cfg.valveUsed p valve = true) (hr : s.loader.station = .recording)
    (hc : s.chk.current = none) (hq : s.chk.queue = []) :
    offerOutcome n valve s = .accepted := by
  simp [offerOutcome, hp, hv, State.recording, hr, State.pairKnown, hc, hq]

/-- Accepted by an idle sequencer, a check starts at once and the queue stays empty. -/
theorem offerCheck_starts {s : State} {n valve : Nat} {p : Path} (hp : pathOf n = some p)
    (hv : s.cfg.valveUsed p valve = true) (hr : s.loader.station = .recording)
    (hc : s.chk.current = none) (hq : s.chk.queue = []) :
    offerCheck n valve s = (.accepted, startCheck ⟨p, valve⟩ s) := by
  have ho := offerOutcome_accepted hp hv hr hc hq
  have hs : ({ s with chk := ⟨none, [], s.chk.acc, s.chk.drift⟩ } : State) = s := by rw [← hc, ← hq]
  simp only [offerCheck, ho, hp, startNext, hc, hq, List.nil_append, hs]

/-- A check that starts writes the sequencer, in SETTLE for its path's settle time, and the open
minute. -/
theorem startCheck_eq (pair : CheckPair) (s : State) :
    startCheck pair s = { s with
      chk := { s.chk with
        current := some ⟨pair, .settle (1000 * (s.cfg.path pair.path).settle)⟩ }
      port := (startCheck pair s).port } := by
  unfold startCheck markChecked
  split <;> rfl

/-- The open minute of every enabled channel on the path takes the CHECKED mark (R7, R116). -/
theorem startCheck_checked {s : State} {pair : CheckPair} {c : Chan}
    (ho : s.port.openMin.isSome = true) (hc : (s.cfg.chans.get c).onPath pair.path = true) :
    ((startCheck pair s).port.acc.get c).checked = true := by
  have hp : (startCheck pair s).port.acc = checkedAccs s.cfg pair.path s.port.acc := by
    unfold startCheck markChecked
    rw [if_pos ho]
    rfl
  rw [hp, checkedAccs, eight_get_build, if_pos hc]

theorem pathOf_eq_one (n : Nat) : pathOf n = some .one ↔ n = 1 := by
  unfold pathOf
  split <;> simp_all

/-- With a check of path 1 in SETTLE exactly the channels of path 1 are under check (R113). -/
theorem underCheck_settle {s : State} {valve left : Nat}
    (hc : s.chk.current = some ⟨⟨.one, valve⟩, .settle left⟩) :
    s.underCheck = fun c => decide ((s.cfg.chans.get c).path = 1) := by
  funext c
  have hphase : ∀ p, (s.chk.phase p != .idle) = decide (p = .one) := by
    intro p; cases p <;> simp [CheckUnit.phase, hc, Progress.phase]
  have hp := pathOf_eq_one (s.cfg.chans.get c).path
  unfold State.underCheck
  cases h : pathOf (s.cfg.chans.get c).path with
  | none => simpa [h] using hp
  | some p => exact (hphase p).trans (decide_eq_decide.mpr (by rw [← hp, h, Option.some_inj]))

/-- A valve code is one byte of the payload that carries it (R195). -/
theorem field_checkPayload {valve : Nat} (h : valve < 8) :
    field [0x01, byte valve] 0 1 = 1 ∧ field [0x01, byte valve] 1 1 = valve := by
  refine ⟨rfl, ?_⟩
  show 0 * 256 + (byte valve).toNat = valve
  rw [byte, BitVec.toNat_ofNat]
  omega

/-- Settles O37: the request reaches the sequencer, the offer is accepted, and its check starts. -/
theorem acceptedCheckStarts : Obligations.AcceptedCheckStarts := by
  intro s j f valve hj h0 hs hd hn hpay hv hused hr hc hq ho
  obtain ⟨hpath, hcode⟩ := field_checkPayload hv
  have hexec : exec (.checkRequest f) s =
      .next (answer 10 f .accepted (startCheck ⟨.one, valve⟩ s)) := by
    show Host.Outcome.next (receive 10 f s) = _
    rw [receive_request hj h0 hs hd hn (by decide) (by rw [hpay]; rfl) (by rw [hr]; decide)]
    show Host.Outcome.next (handleCheck f s) = _
    rw [handleCheck, hpay, hpath, hcode, offerCheck_starts rfl hused hr hc hq]
  obtain ⟨t, ht⟩ : ∃ t, t = answer 10 f .accepted (startCheck ⟨.one, valve⟩ s) := ⟨_, rfl⟩
  have hstart := startCheck_eq ⟨.one, valve⟩ s
  have hchk : t.chk = { s.chk with
      current := some ⟨⟨.one, valve⟩, .settle (1000 * s.cfg.path1.settle)⟩ } := by
    rw [ht, answer_chk, hstart]; rfl
  have hcfg : t.cfg = s.cfg := by simp [State.cfg, ht]
  rw [← ht] at hexec
  refine ⟨t, hexec, ?_, hchk, by simp [State.valve, hchk, Progress.phase], ?_, fun c hon => ?_, ?_⟩
  · apply State.ext_fields <;> simp [ht]
  · rw [← hcfg]; exact underCheck_settle (by rw [hchk])
  · rw [ht, answer_port]; exact startCheck_checked ho hon
  · rw [ht, answer_bus]; simp

end Sys2Proof.Machine
end

section
/-! The plant class of an interval and its accumulators (spec/06, R27, R28, R88 to R90). -/

namespace Sys2Proof.Machine

/-! ## The plant class (R28) -/

/-- An interval is OPERATING from its share of operating minutes on. -/
theorem plantClass_operating (pOp m o t : Nat) :
    plantClass pOp m o t = .operating ↔ m * pOp ≤ 100 * o := by
  rw [← ceilPercent_le]
  unfold plantClass
  by_cases h : ceilPercent m pOp ≤ o
  · simp [h]
  · rw [if_neg h]
    split <;> simp [h]

/-- Below that share an interval without an operating or a transition minute is STANDSTILL. -/
theorem plantClass_standstill (pOp m o t : Nat) :
    plantClass pOp m o t = .standstill ↔ 100 * o < m * pOp ∧ o + t = 0 := by
  rw [← Nat.not_le, ← ceilPercent_le]
  unfold plantClass
  by_cases h : ceilPercent m pOp ≤ o
  · simp [h]
  · by_cases hot : 1 ≤ o + t
    · rw [if_neg h, if_pos hot]; simp only [reduceCtorEq, false_iff]; omega
    · rw [if_neg h, if_neg hot]; simp only [true_iff]; omega

/-- Settles O33: P_OP is at least 1, so a standing plant never reaches the operating threshold. -/
theorem plantClassOfAnInterval : Obligations.PlantClassOfAnInterval := by
  intro pOp m o t st hlow _ hm hsum
  refine ⟨plantClass_operating .., (plantClass_standstill ..).trans ?_⟩
  have hthreshold : 0 < m * pOp := Nat.mul_pos hm hlow
  omega

/-! ## The accumulators (R88 to R90) -/

/-- A minute raises M and one of the three state counts; UNKNOWN counts as operating (R27). -/
theorem takeState_counts (st : PlantState) (a : IntervalAcc) :
    (a.takeState st).minutes = a.minutes + 1 ∧
      (a.takeState st).operating + (a.takeState st).transition + (a.takeState st).standstill =
        a.operating + a.transition + a.standstill + 1 ∧
      (a.takeState st).chans = a.chans := by
  cases st <;> simp only [IntervalAcc.takeState, true_and, and_true] <;> omega

/-- The status of a minute leaves the considered count, and raises v at most by a considered minute
(R90). -/
theorem takeStatus_counts (kind : Kind) (st : PlantState) (r : MinuteResult) (a : ChanAcc) :
    (a.takeStatus kind st r).considered = a.considered ∧
      (a.takeStatus kind st r).v ≤ a.v + (consideredIn kind st).toNat := by
  unfold ChanAcc.takeStatus
  cases consideredIn kind st <;> cases r.status <;> simp

/-- A channel's minute is counted as considered where it is, and as valid at most there. -/
theorem chanAcc_take_counts (kind : Kind) (st : PlantState) (r : MinuteResult) (a : ChanAcc) :
    (a.take kind st r).considered = a.considered + (consideredIn kind st).toNat ∧
      (a.take kind st r).v ≤ a.v + (consideredIn kind st).toNat := by
  obtain ⟨hconsidered, hv⟩ := takeStatus_counts kind st r a
  refine ⟨?_, hv⟩
  unfold ChanAcc.take
  cases h : consideredIn kind st <;> simp [hconsidered]

/-- What a minute makes of a channel's accumulator: its result taken, or, with none, no change. -/
theorem intervalAcc_take_chan (img : Image) (st : PlantState)
    (results : Eight (Option MinuteResult)) (a : IntervalAcc) (c : Chan) :
    ((a.take img st results).chans.get c = a.chans.get c) ∨
      ∃ r, (a.take img st results).chans.get c =
        (a.chans.get c).take (img.chans.get c).kind st r := by
  obtain ⟨-, -, hchans⟩ := takeState_counts st a
  unfold IntervalAcc.take
  simp only [eight_get_build, hchans]
  cases results.get c with
  | none => exact .inl rfl
  | some r => exact .inr ⟨r, rfl⟩

/-- Settles O34: each minute raises M by one, one state count by one, and a channel's valid count only
with its considered count. -/
theorem accumulatorsAgree : Obligations.AccumulatorsAgree := by
  rintro img st results a b rfl hsum hchans
  obtain ⟨hm, hstates, -⟩ := takeState_counts st a
  have hminutes : (a.take img st results).minutes = a.minutes + 1 := hm
  refine ⟨hminutes, ?_, fun c => ?_⟩
  · show (a.takeState st).operating + (a.takeState st).transition + (a.takeState st).standstill =
      (a.takeState st).minutes
    omega
  · obtain ⟨hv, hconsidered⟩ := hchans c
    rw [hminutes]
    rcases intervalAcc_take_chan img st results a c with h | ⟨r, h⟩ <;> rw [h]
    · omega
    · obtain ⟨htake, hvalid⟩ := chanAcc_take_counts (img.chans.get c).kind st r (a.chans.get c)
      have hone := (consideredIn (img.chans.get c).kind st).toNat_le
      omega

end Sys2Proof.Machine
end

section
/-! The Input Filter (spec/02, R20 to R23) and the ready inputs of a purge (spec/07, R125, R126). -/

namespace Sys2Proof.Machine

/-- Taking a level writes the input's filtered level and no timer. -/
theorem setLevel_filter (i : StatusInput) (level : Bool) (s : State) :
    (setLevel i level s).filter =
      { s.filter with level := s.filter.level.set i level } := by
  unfold setLevel
  dsimp only
  split
  · split <;> simp
  · rfl

/-- FEED and BURNER belong to no path: a level of theirs reaches the filter alone. -/
theorem setLevel_unready {i : StatusInput} (level : Bool) (s : State)
    (hi : i = .feed ∨ i = .burner) :
    setLevel i level s =
      { s with filter := { s.filter with level := s.filter.level.set i level } } := by
  rcases hi with rfl | rfl <;> rfl

/-- A ready input that becomes active reaches the Check Sequencer (R23, R125). -/
theorem setLevel_rises {i : StatusInput} {path : Path} (s : State)
    (hp : readyPath i = some path) (hold : s.filter.level.get i = false) :
    setLevel i true s = readyActive path
      { s with filter := { s.filter with level := s.filter.level.set i true } } := by
  unfold setLevel
  rw [hp, hold]
  rfl

/-- In a purge whose served mark is set the path's ready input ends it (R125). -/
theorem readyActive_served {s : State} {pair : CheckPair} {left : Timer} {ceiling : Nat}
    (hc : s.chk.current = some ⟨pair, .purge left ceiling true⟩) :
    readyActive pair.path s = endPurge s := by
  unfold readyActive
  rw [hc]
  exact if_pos rfl

/-! ## Raw edges (R20, R21) -/

/-- A raw edge while the filter works. -/
theorem exec_statusInputEdge {s : State} (i : StatusInput) (level : Bool)
    (hf : s.loader.image.isSome = true) :
    exec (.statusInputEdge i level) s = .next (filterEdge i level
      { s with pins := { s.pins with raw := s.pins.raw.set i level } }) :=
  if_pos hf

/-- An edge back to the filtered level stops the timer. -/
theorem filterEdge_back {i : StatusInput} {level : Bool} {s : State}
    (h : level = s.filter.level.get i) :
    filterEdge i level s = setFilterTimer i none s :=
  if_pos h

/-- An edge away from the filtered level starts the timer. -/
theorem filterEdge_away {i : StatusInput} {level : Bool} {s : State}
    (h : level ≠ s.filter.level.get i) (h0 : s.cfg.station.filterSteps.get i ≠ 0) :
    filterEdge i level s =
      setFilterTimer i (some (100 * s.cfg.station.filterSteps.get i)) s := by
  rw [filterEdge, if_neg h, if_neg h0]

/-- With a filter time of 0 an edge away from the filtered level is taken at once. -/
theorem filterEdge_at_once {i : StatusInput} {level : Bool} {s : State}
    (h : level ≠ s.filter.level.get i) (h0 : s.cfg.station.filterSteps.get i = 0) :
    filterEdge i level s = setLevel i level (setFilterTimer i none s) := by
  rw [filterEdge, if_neg h, if_pos h0]

/-- An edge of FEED or BURNER reaches the filter alone. -/
theorem filterEdge_unready {i : StatusInput} (level : Bool) (s : State)
    (hi : i = .feed ∨ i = .burner) :
    filterEdge i level s = { s with filter := (filterEdge i level s).filter } := by
  unfold filterEdge
  split
  · rfl
  · split
    · rw [setLevel_unready _ _ hi]; rfl
    · rfl

/-- Settles O19: back to the filtered level, away from it, and away from it with no filter time. -/
theorem rawEdgeDrivesTheFilter : Obligations.RawEdgeDrivesTheFilter := by
  intro s i level hi hf
  obtain ⟨u, hu⟩ : ∃ u : State,
    u = { s with pins := { s.pins with raw := s.pins.raw.set i level } } := ⟨_, rfl⟩
  have hexec := exec_statusInputEdge i level hf
  rw [← hu] at hexec
  have hfilter : u.filter = s.filter := by rw [hu]
  have hcfg : u.cfg = s.cfg := by rw [hu]; rfl
  have hframe := filterEdge_unready level u hi
  refine ⟨_, hexec, ?_, ?_, fun hl => ?_, fun hl h0 => ?_, fun hl h0 => ?_⟩
  · rw [hframe, hu]
  · rw [hframe, hu]
  · rw [← hfilter] at hl ⊢
    rw [filterEdge_back hl]
    rfl
  · rw [← hfilter] at hl ⊢
    rw [← hcfg] at h0 ⊢
    rw [filterEdge_away hl h0]
    rfl
  · rw [← hfilter] at hl ⊢
    rw [← hcfg] at h0
    rw [filterEdge_at_once hl h0, setLevel_filter]
    rfl

/-! ## Filter expiry (R21, R125, R126) -/

/-- A running timer's expiry: the timer stops and the raw level is taken. -/
theorem exec_filterTimerExpiry {s : State} {i : StatusInput} {n : Nat}
    (ht : s.filter.timer.get i = some n) :
    exec (.filterTimerExpiry i) s =
      .next (setLevel i (s.pins.raw.get i) (setFilterTimer i none s)) := by
  show execFilterTimerExpiry i s = _
  unfold execFilterTimerExpiry
  rw [ht]

/-- Settles O20: the expiry is the taking of the raw level, and a rising ready input ends its served
purge. -/
theorem filterExpiryTakesTheRawLevel : Obligations.FilterExpiryTakesTheRawLevel := by
  intro s i n ht
  have hfilter : (setLevel i (s.pins.raw.get i) (setFilterTimer i none s)).filter =
      ⟨s.filter.level.set i (s.pins.raw.get i), s.filter.timer.set i none⟩ := setLevel_filter ..
  refine ⟨_, exec_filterTimerExpiry ht, ?_, ?_, fun j hj => ?_, ?_, fun hi => ?_, ?_⟩
  · simp [hfilter]
  · simp [hfilter]
  · simp [hfilter, hj]
  · apply State.ext_fields <;> simp
  · rw [setLevel_unready _ _ hi]
    exact ⟨rfl, rfl⟩
  · rintro path pair left ceiling hpath hraw hold rfl hcur
    have hready : readyPath i = some pair.path := by
      rcases hpath with ⟨rfl, hp⟩ | ⟨rfl, hp⟩ <;> rw [hp] <;> rfl
    rw [hraw, setLevel_rises (setFilterTimer i none s) hready (by exact hold),
      readyActive_served (by exact hcur)]
    exact endPurge_ended s _ rfl rfl rfl

end Sys2Proof.Machine
end

section
/-! Resets (spec/10, R179, R180), the end of loading (R191) and mount (spec/08, R152). -/

namespace Sys2Proof.Machine

/-! ## Resets (R179, R180) -/

/-- POWER_UP and RESET_PIN are one reset, which holds its period. -/
theorem exec_heldReset {i : Instr} (s : State) (hi : i = .powerUp ∨ i = .resetPin) :
    exec i s = .next (holdReset s) := by
  rcases hi with rfl | rfl <;> rfl

/-- A held reset leaves the reset state but for the pins, the flash and what is outside the part. -/
theorem holdReset_eq (s : State) :
    holdReset s = { State.reset with
      pending := s.pending, draws := (holdReset s).draws, flash := (holdReset s).flash,
      pins := { s.pins with resetHeld := true } } := by
  obtain ⟨hpending, hpins⟩ := resetAll_frame s
  exact State.ext_fields hpending rfl (congrArg (fun p : Pins => { p with resetHeld := true }) hpins)
    rfl rfl rfl rfl rfl rfl rfl rfl rfl rfl

/-- The pins and the inputs taken follow from the loader, the Mark Unit and the bus; those of the
reset state are those of a reset period (R200). -/
theorem outputs_reset (pending : List Instr) (draws : Nat) (pins : Pins) (flash : List Host.Cell) :
    State.outputs { State.reset with pending, draws, pins, flash } = PinOutputs.reset := rfl

/-- Settles O10: both commands are the held reset, whose state is the reset state but for what a reset
leaves. -/
theorem resetGivesResetValues : Obligations.ResetGivesResetValues := by
  intro i s hi
  refine ⟨holdReset s, exec_heldReset s hi, holdReset_eq s, ?_, rfl, rfl, rfl, rfl⟩
  rw [holdReset_eq]
  exact outputs_reset ..

/-! ## The end of loading (R191) -/

/-- An image of the length its header gives is read whole (R182). -/
theorem exec_eepromReadDone_image {s : State} {head image : List Byte}
    (hp : s.loader.phase = .image head) (hl : image.length = headerImageLen head) :
    exec (.eepromReadDone true image) s = .next (imageRead head image s) := by
  show execEepromReadDone true image s = _
  unfold execEepromReadDone
  rw [hp]
  exact congrArg Host.Outcome.next (if_pos hl)

/-- An image that passes every check is taken up (R191). -/
theorem imageRead_passed {head image : List Byte} (s : State)
    (h : imageRefusal image (headerCount head) = none) :
    imageRead head image s =
      acceptImage (readImage image (readTable (headerCount head) image)) s := by
  unfold imageRead
  rw [h]

/-- Mount begins on a resting flash line with the read of area 0's header (R152). -/
theorem beginMount_activity {s : State} (h : s.arch.activity = .idle) :
    (beginMount s).arch.activity = .reading ⟨.mount, 0, 4096⟩ := by
  have hread := selectWith_read s.mark.calendar s.number 63
    { s.arch with mount := .headers [] [], reads := headerReads } ⟨.mount, 0, 4096⟩
    headerReads.tail h rfl
  exact congrArg Archive.activity hread

/-- The blocks after an accepted image, the archive aside (R22, R52, R158, R191). -/
theorem acceptImage_eq (img : Image) (s : State) :
    acceptImage img s = { s with
      loader := ⟨.mounting, .done, none, none, some img⟩
      bus := { s.bus with
        joined := some ⟨img.station.number, img.station.bitRate⟩, mediumIdle := false }
      filter := ⟨s.pins.raw, ⟨none, none, none, none⟩⟩
      exch := { s.exch with entries := img.subs.map fun _ => ValueEntry.reset }
      arch := (acceptImage img s).arch } := by
  apply State.ext_fields <;> simp [acceptImage]

/-! ## What mount keeps (R152) -/

/-- A selection leaves the area table and the erase list. -/
@[simp] theorem select_lists (s : State) :
    (select s).arch.table = s.arch.table ∧ (select s).arch.erases = s.arch.erases := by
  obtain ⟨htable, -, herases, -⟩ := selectWith_keeps s.mark.calendar s.number 64 s.arch
  exact ⟨htable, herases⟩

@[simp] theorem completeMount_lists (s : State) :
    (completeMount s).arch.table = s.arch.table ∧
      (completeMount s).arch.erases = s.arch.erases := by
  simp [completeMount]

@[simp] theorem requestRead_lists (r : ReadReq) (s : State) :
    (requestRead r s).arch.table = s.arch.table ∧
      (requestRead r s).arch.erases = s.arch.erases := by
  unfold requestRead serveSuspended
  dsimp only
  split
  · repeat' split
    all_goals exact ⟨rfl, rfl⟩
  · split <;> exact ⟨rfl, rfl⟩
  · simp

@[simp] theorem searchEvents_lists (a : Area) (lo hi : Nat) (s : State) :
    (searchEvents a lo hi s).arch.table = s.arch.table ∧
      (searchEvents a lo hi s).arch.erases = s.arch.erases := by
  unfold searchEvents
  split <;> simp [beginDays, mountRead, setMount]

/-- From the fourth header on mount leaves the area table and the erase list as they were filled. -/
theorem closeExtra_lists (todo : List Area) (s : State) :
    (closeExtra todo s).arch.table = s.arch.table ∧
      (closeExtra todo s).arch.erases = s.arch.erases := by
  unfold closeExtra beginSearch
  repeat' split
  all_goals simp

/-! ## The reads of mount -/

/-- The completion of a read of mount in the device (R141, R152). -/
theorem exec_flashReadDone_mount {s : State} {req : ReadReq}
    (ha : s.arch.activity = .reading req) (hw : req.who = .mount)
    (hf : req.addr + req.len ≤ flashSize) :
    exec .flashReadDone s = .next (select (mountReadDone req
      { s with arch := { s.arch with activity := .idle } })) := by
  show execFlashReadDone s = _
  unfold execFlashReadDone endRead readDone inFlash
  rw [ha]
  dsimp only [Activity.read]
  rw [hw, if_pos (decide_eq_true hf)]

/-- Of the loader a turn of mount writes the station state alone (R181). -/
theorem closeExtra_loader (todo : List Area) (s : State) :
    (closeExtra todo s).loader =
      { s.loader with station := (closeExtra todo s).loader.station } := by
  unfold closeExtra beginSearch
  repeat' split
  all_goals simp [completeMount]

theorem mountReadDone_loader (req : ReadReq) (s : State) :
    (mountReadDone req s).loader =
      { s.loader with station := (mountReadDone req s).loader.station } := by
  unfold mountReadDone
  dsimp only
  split
  · split
    · rfl
    · exact closeExtra_loader ..
  · split
    · split <;> simp
    · rfl
  · repeat' split
    all_goals simp [completeMount]
  · rfl

/-- A read of mount ends with the archive and the station state alone changed. -/
theorem select_mountReadDone_eq (req : ReadReq) (s : State) (a : Archive) (t : State)
    (ht : t = select (mountReadDone req { s with arch := a })) :
    t = { s with loader := { s.loader with station := t.loader.station }, arch := t.arch } := by
  subst ht
  apply State.ext_fields <;> simp
  exact mountReadDone_loader req { s with arch := a }

/-- Only an ERASING or a RELEASED header gets a place on the erase list (R152, step 2). -/
theorem mountErase_other {e : AreaEntry} (a : Area) (he : e.state ≠ .erasing)
    (hr : e.state ≠ .released) : mountErase a e = [] := by
  unfold mountErase
  split
  · exact absurd ‹_› he
  · exact absurd ‹_› hr
  · rfl

/-- The fourth header fills the area table and the erase list (R152, steps 1 and 2). -/
theorem mountReadDone_fourth {s : State} {req : ReadReq} {got : List AreaEntry}
    {steps : List EraseEntry} {last : AreaEntry} (hm : s.arch.mount = .headers got steps)
    (hg : got.length = 3)
    (hl : last = headerEntry (flashReadBytes s.flash req.addr 8)
      (flashErased s.flash req.addr 4096) s.number) :
    (mountReadDone req s).arch.table = some (tableOf (got ++ [last])) ∧
      (mountReadDone req s).arch.erases = (steps ++ mountErase 3 last).take 3 := by
  unfold mountReadDone
  rw [hm]
  dsimp only
  rw [headerLen_eq, ← hl, List.length_append, hg]
  exact closeExtra_lists _ _

/-- A read of the day section, by what its slot holds (R152, step 5). -/
theorem mountReadDone_day {s : State} {req : ReadReq} {slot : Nat} {i : Area} {e : AreaEntry}
    {bytes : List Byte} (hm : s.arch.mount = .days slot) (ho : s.arch.openArea = some (i, e))
    (hb : bytes = flashReadBytes s.flash req.addr req.len) :
    mountReadDone req s =
      if slotState bytes = .committed then
        completeMount { s with arch := { s.arch with lastDay := some ⟨slot + 1, bytes⟩ } }
      else if slot = 0 then completeMount s
      else mountRead i .day (slot - 1) (setMount (.days (slot - 1)) s) := by
  subst hb
  unfold mountReadDone
  rw [hm]
  dsimp only
  rw [ho]

/-- On a resting flash line with no other read waiting, a read of mount begins at once. -/
theorem mountRead_starts {s : State} (a : Area) (k : RecordKind) (slot : Nat)
    (hi : s.arch.activity = .idle) (hr : s.arch.reads = []) :
    (mountRead a k slot s).arch =
      { s.arch with activity := .reading ⟨.mount, slotAddr a k slot, slotSize k⟩ } := by
  have hreq : mountRead a k slot s = select { s with arch :=
      { s.arch with reads := [⟨.mount, slotAddr a k slot, slotSize k⟩] } } := by
    simp only [mountRead, requestRead, hi, hr, List.nil_append]
  rw [hreq, select_arch, selectWith_read _ _ 63 _ _ [] (by exact hi) rfl, ← hr]

/-! ## The completion of mount (R152) -/

theorem enqueue_condition (j : Job) (a : Archive) :
    (a.enqueue j).condition = a.condition ∧ (a.enqueue j).opening = a.opening := by
  rw [enqueue_eq]
  exact ⟨rfl, rfl⟩

theorem refuseJob_condition (cal : Option IStamp) (k f : Nat) (st : List Byte) (a : Archive) :
    (refuseJob cal k f st a).condition = a.condition ∧
      (refuseJob cal k f st a).opening = a.opening :=
  enqueue_condition _ (a.popJob.addDropped 1)

theorem takeRecord_condition (cal : Option IStamp) (y : Nat) (k : RecordKind) (i : Nat)
    (d st : List Byte) (a : Archive) :
    (takeRecord cal y k i d st a).condition = a.condition ∧
      (takeRecord cal y k i d st a).opening = a.opening := by
  unfold takeRecord
  split
  · exact refuseJob_condition ..
  · split
    · exact refuseJob_condition ..
    · split <;> exact ⟨rfl, rfl⟩

/-- Taking a job leaves the condition, and makes no opening pending. -/
theorem takeJob_condition (cal : Option IStamp) (j : Job) (a : Archive) :
    (takeJob cal j a).condition = a.condition ∧ (takeJob cal j a).opening = a.opening := by
  cases j with
  | interval stamp data => exact takeRecord_condition ..
  | day d data => exact takeRecord_condition ..
  | summary year slot data => exact takeRecord_condition ..
  | event data =>
    show (takeEvent data a).condition = _ ∧ (takeEvent data a).opening = _
    unfold takeEvent
    repeat' split
    all_goals exact ⟨rfl, rfl⟩
  | yearEnd closing opening =>
    show (takeYearEnd cal closing opening a).condition = _ ∧
      (takeYearEnd cal closing opening a).opening = _
    unfold takeYearEnd
    repeat' split
    · exact ⟨rfl, rfl⟩
    · exact ⟨rfl, rfl⟩
    · exact enqueue_condition _ a.popJob
  | released i => exact ⟨rfl, rfl⟩

theorem startErase_condition (a : Archive) :
    (startErase a).condition = a.condition ∧ (startErase a).opening = a.opening := by
  unfold startErase
  repeat' split
  all_goals exact ⟨rfl, rfl⟩

/-- Only the service of a pending opening changes the condition (R146): with none pending a selection
leaves it, and none is pending after. -/
theorem selectWith_condition (cal : Option IStamp) (n fuel : Nat) (a : Archive)
    (ho : a.opening = none) :
    (selectWith cal n fuel a).condition = a.condition ∧
      (selectWith cal n fuel a).opening = none := by
  induction fuel generalizing a with
  | zero => exact ⟨rfl, ho⟩
  | succ fuel ih =>
    obtain ⟨herase, heraseOpening⟩ := startErase_condition a
    unfold selectWith
    split
    · exact ⟨rfl, ho⟩
    · split
      · exact ⟨rfl, ho⟩
      · rename_i hsome
        rw [ho] at hsome
        cases hsome
      · rename_i j _ _ _ _
        obtain ⟨hcondition, hopening⟩ := takeJob_condition cal j a
        split
        · rw [← hcondition]
          exact ih _ (hopening.trans ho)
        · split
          · exact ⟨herase, heraseOpening.trans ho⟩
          · exact ⟨rfl, ho⟩
      · split
        · exact ⟨herase, heraseOpening.trans ho⟩
        · exact ⟨rfl, ho⟩

/-- What the completion of mount leaves (R152): UNSYNCED, mount over, READY or still FAULT, the last day
record as found. No opening is pending, so that nothing selected after it changes the condition. -/
structure MountEnded (s t : State) : Prop where
  station : t.loader.station = .unsynced
  mount : t.arch.mount = .off
  condition : t.arch.condition = if s.arch.condition = .fault then .fault else .ready
  lastDay : t.arch.lastDay = s.arch.lastDay
  opening : t.arch.opening = none

theorem MountEnded.select {s t : State} (h : MountEnded s t) : MountEnded s (select t) := by
  obtain ⟨-, -, -, -, hmount, hday, -⟩ := selectWith_keeps t.mark.calendar t.number 64 t.arch
  obtain ⟨hcondition, hopening⟩ :=
    selectWith_condition t.mark.calendar t.number 64 t.arch h.opening
  exact ⟨h.station, hmount.trans h.mount, hcondition.trans h.condition, hday.trans h.lastDay,
    hopening⟩

theorem completeMount_ended {s : State} (ho : s.arch.opening = none) :
    MountEnded s (completeMount s) :=
  MountEnded.select ⟨rfl, rfl, rfl, rfl, ho⟩

/-- A day slot that reads COMMITTED, or the first slot whatever it reads, ends mount (R152, step 5). -/
theorem mountReadDone_lastDay {s : State} {req : ReadReq} {slot : Nat} {i : Area} {e : AreaEntry}
    {bytes : List Byte} (hm : s.arch.mount = .days slot) (ho : s.arch.openArea = some (i, e))
    (hopen : s.arch.opening = none) (hb : bytes = flashReadBytes s.flash req.addr req.len)
    (h : slotState bytes = .committed ∨ slot = 0) :
    MountEnded
      { s with arch := { s.arch with
          lastDay := if slotState bytes = .committed then some ⟨slot + 1, bytes⟩
            else s.arch.lastDay } }
      (mountReadDone req s) := by
  rw [mountReadDone_day hm ho hb]
  by_cases hc : slotState bytes = .committed
  · rw [if_pos hc, if_pos hc]
    exact completeMount_ended hopen
  · rw [if_neg hc, if_pos (h.resolve_left hc), if_neg hc]
    exact completeMount_ended hopen

/-- Any other slot of the day section is passed over for the one below it (R152, step 5). -/
theorem mountReadDone_nextDay {s : State} {req : ReadReq} {slot : Nat} {i : Area} {e : AreaEntry}
    {bytes : List Byte} (hm : s.arch.mount = .days slot) (ho : s.arch.openArea = some (i, e))
    (hi : s.arch.activity = .idle) (hr : s.arch.reads = [])
    (hb : bytes = flashReadBytes s.flash req.addr req.len)
    (hc : slotState bytes ≠ .committed) (h0 : slot ≠ 0) :
    (mountReadDone req s).loader = s.loader ∧
      (mountReadDone req s).arch = { s.arch with
        mount := .days (slot - 1)
        activity := .reading ⟨.mount, slotAddr i .day (slot - 1), 320⟩ } := by
  rw [mountReadDone_day hm ho hb, if_neg hc, if_neg h0]
  exact ⟨by simp, mountRead_starts i .day (slot - 1) hi hr⟩

/-- Settles O14: the image is taken up by the blocks, and mount's reads lead through the area table and
the day section to its completion. -/
theorem passedImageIsTakenUp : Obligations.PassedImageIsTakenUp := by
  constructor
  · intro s head image hp hl hok hi
    refine ⟨_, _, exec_eepromReadDone_image hp hl, rfl, ?_⟩
    rw [imageRead_passed s hok]
    have heq := acceptImage_eq (readImage image (readTable (headerCount head) image)) s
    refine ⟨by rw [heq], by rw [heq], by rw [heq], by rw [heq], beginMount_activity hi, ?_⟩
    rw [heq]
  · intro s req ha hw hf
    have hexec := exec_flashReadDone_mount ha hw hf
    have hframe := select_mountReadDone_eq req s { s.arch with activity := .idle } _ rfl
    constructor
    · intro got steps hm hg
      obtain ⟨last, hlast⟩ : ∃ last, last = headerEntry (flashReadBytes s.flash req.addr 8)
        (flashErased s.flash req.addr 4096) s.number := ⟨_, rfl⟩
      obtain ⟨htable, herases⟩ := mountReadDone_fourth
        (s := { s with arch := { s.arch with activity := .idle } }) hm hg hlast
      refine ⟨_, last, hexec, hframe, hlast, ?_⟩
      rw [(select_lists _).1, (select_lists _).2, htable, herases]
      refine ⟨rfl, fun h => ?_, fun h => ?_, fun he hr => ?_⟩
      · rw [mountErase, h]
      · rw [mountErase, h]
      · rw [mountErase_other 3 he hr, List.append_nil]
    · intro slot i e bytes hm ho hr hopen hb
      refine ⟨_, hexec, hframe, fun h => ?_, fun hc h0 => ?_⟩
      · obtain ⟨hstation, hmount, hcondition, hday, -⟩ := (mountReadDone_lastDay
          (s := { s with arch := { s.arch with activity := .idle } }) hm ho hopen hb h).select
        exact ⟨hstation, hmount, hcondition, hday⟩
      · obtain ⟨hloader, harch⟩ := mountReadDone_nextDay
          (s := { s with arch := { s.arch with activity := .idle } }) hm ho rfl hr hb hc h0
        rw [select_loader, select_arch, selectWith_busy _ _ _ _ (by rw [harch]; simp), harch]
        exact ⟨hloader, rfl, rfl⟩

end Sys2Proof.Machine
end

section
/-! Where mount and resumption stand, and whether the record queue is served (spec/08, R138, R152 to
R155): what every shared operation that touches the archive leaves of them. -/

namespace Sys2Proof.Machine

@[simp] theorem select_stage (s : State) :
    (select s).arch.mount = s.arch.mount ∧ (select s).arch.resume = s.arch.resume ∧
    (select s).arch.service = s.arch.service := by
  obtain ⟨-, hservice, -, -, hmount, -, hresume⟩ :=
    selectWith_keeps s.mark.calendar s.number 64 s.arch
  exact ⟨hmount, hresume, hservice⟩

@[simp] theorem submitJob_stage (j : Job) (s : State) :
    (submitJob j s).arch.mount = s.arch.mount ∧ (submitJob j s).arch.resume = s.arch.resume ∧
    (submitJob j s).arch.service = s.arch.service := by
  rw [submitJob, enqueue_eq]; simp

@[simp] theorem submitEvent_stage (d : List Byte) (s : State) :
    (submitEvent d s).arch.mount = s.arch.mount ∧ (submitEvent d s).arch.resume = s.arch.resume ∧
    (submitEvent d s).arch.service = s.arch.service := by
  simp [submitEvent]

@[simp] theorem submitEvents_stage (l : List (List Byte)) (s : State) :
    (submitEvents l s).arch.mount = s.arch.mount ∧
    (submitEvents l s).arch.resume = s.arch.resume ∧
    (submitEvents l s).arch.service = s.arch.service := by
  induction l generalizing s <;> simp_all [submitEvents]

@[simp] theorem submitJobs_stage (l : List Job) (s : State) :
    (submitJobs l s).arch.mount = s.arch.mount ∧ (submitJobs l s).arch.resume = s.arch.resume ∧
    (submitJobs l s).arch.service = s.arch.service := by
  induction l generalizing s <;> simp_all [submitJobs]

@[simp] theorem requestRead_stage (r : ReadReq) (s : State) :
    (requestRead r s).arch.mount = s.arch.mount ∧ (requestRead r s).arch.resume = s.arch.resume ∧
    (requestRead r s).arch.service = s.arch.service := by
  unfold requestRead serveSuspended
  dsimp only
  repeat' split
  all_goals simp_all

@[simp] theorem archiveFault_stage (s : State) :
    (archiveFault s).arch.mount = s.arch.mount ∧ (archiveFault s).arch.resume = s.arch.resume ∧
    (archiveFault s).arch.service = s.arch.service := by
  simp [archiveFault, Archive.addDropped]

@[simp] theorem offerScheduled_stage (st : IStamp) (p : Path) (e : ScheduleEntry) (s : State) :
    (offerScheduled st p e s).arch.mount = s.arch.mount ∧
    (offerScheduled st p e s).arch.resume = s.arch.resume ∧
    (offerScheduled st p e s).arch.service = s.arch.service := by
  have h := offerCheck_frame p.number e.code s
  unfold offerScheduled
  split
  · split <;> rename_i heq <;> rw [heq] at h <;> simp_all
  · simp

@[simp] theorem foldSchedule_stage (st : IStamp) (p : Path) (l : List ScheduleEntry) (s : State) :
    (l.foldl (fun s e => offerScheduled st p e s) s).arch.mount = s.arch.mount ∧
    (l.foldl (fun s e => offerScheduled st p e s) s).arch.resume = s.arch.resume ∧
    (l.foldl (fun s e => offerScheduled st p e s) s).arch.service = s.arch.service := by
  induction l generalizing s <;> simp_all

@[simp] theorem testSchedules_stage (st : IStamp) (s : State) :
    (testSchedules st s).arch.mount = s.arch.mount ∧
    (testSchedules st s).arch.resume = s.arch.resume ∧
    (testSchedules st s).arch.service = s.arch.service := by
  simp [testSchedules]

@[simp] theorem measureChannel_stage (p : CheckPair) (c : Chan) (s : State) :
    (measureChannel p c s).arch.mount = s.arch.mount ∧
    (measureChannel p c s).arch.resume = s.arch.resume ∧
    (measureChannel p c s).arch.service = s.arch.service := by
  unfold measureChannel
  dsimp only
  repeat' split
  all_goals simp

@[simp] theorem foldMeasure_stage (p : CheckPair) (l : List Chan) (s : State) :
    (l.foldl (fun s c => measureChannel p c s) s).arch.mount = s.arch.mount ∧
    (l.foldl (fun s c => measureChannel p c s) s).arch.resume = s.arch.resume ∧
    (l.foldl (fun s c => measureChannel p c s) s).arch.service = s.arch.service := by
  induction l generalizing s <;> simp_all

@[simp] theorem applyDriftReset_stage (c : Chan) (s : State) :
    (applyDriftReset c s).arch.mount = s.arch.mount ∧
    (applyDriftReset c s).arch.resume = s.arch.resume ∧
    (applyDriftReset c s).arch.service = s.arch.service := by
  simp [applyDriftReset]

@[simp] theorem closeYear_stage (l : Bool) (y : Nat) (s : State) :
    ((closeYear l y s).1).arch.mount = s.arch.mount ∧
    ((closeYear l y s).1).arch.resume = s.arch.resume ∧
    ((closeYear l y s).1).arch.service = s.arch.service := by
  simp [closeYear]

@[simp] theorem closeHeldDay_stage (s : State) :
    (closeHeldDay s).arch.mount = s.arch.mount ∧ (closeHeldDay s).arch.resume = s.arch.resume ∧
    (closeHeldDay s).arch.service = s.arch.service := by
  unfold closeHeldDay
  dsimp only
  repeat' split
  all_goals simp

@[simp] theorem intervalEnd_stage (s : State) :
    (intervalEnd s).arch.mount = s.arch.mount ∧ (intervalEnd s).arch.resume = s.arch.resume ∧
    (intervalEnd s).arch.service = s.arch.service := by
  unfold intervalEnd
  dsimp only
  repeat' split
  all_goals simp

@[simp] theorem resolveHead_stage (s : State) :
    (resolveHead s).arch.mount = s.arch.mount ∧ (resolveHead s).arch.resume = s.arch.resume ∧
    (resolveHead s).arch.service = s.arch.service := by
  unfold resolveHead
  dsimp only
  repeat' split
  all_goals simp

@[simp] theorem settleWith_stage (n : Nat) (s : State) :
    (settleWith n s).arch.mount = s.arch.mount ∧ (settleWith n s).arch.resume = s.arch.resume ∧
    (settleWith n s).arch.service = s.arch.service := by
  induction n generalizing s with
  | zero => simp [settleWith]
  | succ n ih =>
    unfold settleWith
    repeat' split
    all_goals simp [ih]

@[simp] theorem settle_stage (s : State) :
    (settle s).arch.mount = s.arch.mount ∧ (settle s).arch.resume = s.arch.resume ∧
    (settle s).arch.service = s.arch.service := by
  simp [settle]

@[simp] theorem forceHead_stage (s : State) :
    (forceHead s).arch.mount = s.arch.mount ∧ (forceHead s).arch.resume = s.arch.resume ∧
    (forceHead s).arch.service = s.arch.service := by
  unfold forceHead; split <;> simp

@[simp] theorem enterMinute_stage (m : MStamp) (st : PlantState) (r : Eight (Option MinuteResult))
    (l : Bool)
    (s : State) :
    (enterMinute m st r l s).arch.mount = s.arch.mount ∧
    (enterMinute m st r l s).arch.resume = s.arch.resume ∧
    (enterMinute m st r l s).arch.service = s.arch.service := by
  simp [enterMinute]

@[simp] theorem endWithoutMinute_stage (m : IStamp) (s : State) :
    (endWithoutMinute m s).arch.mount = s.arch.mount ∧
    (endWithoutMinute m s).arch.resume = s.arch.resume ∧
    (endWithoutMinute m s).arch.service = s.arch.service := by
  unfold endWithoutMinute; dsimp only; split <;> simp

@[simp] theorem takeValue_stage (p : Nat) (m : MStamp) (v : Option Int) (st : MinuteStatus)
    (s : State) :
    (takeValue p m v st s).arch.mount = s.arch.mount ∧
    (takeValue p m v st s).arch.resume = s.arch.resume ∧
    (takeValue p m v st s).arch.service = s.arch.service := by
  simp [takeValue]

@[simp] theorem takePlant_stage (m : MStamp) (st : PlantState) (s : State) :
    (takePlant m st s).arch.mount = s.arch.mount ∧
    (takePlant m st s).arch.resume = s.arch.resume ∧
    (takePlant m st s).arch.service = s.arch.service := by
  simp [takePlant]

@[simp] theorem takeEntry_stage (n : Nat) (m : MStamp) (s : State) (e : MinuteEntry) :
    (takeEntry n m s e).arch.mount = s.arch.mount ∧
    (takeEntry n m s e).arch.resume = s.arch.resume ∧
    (takeEntry n m s e).arch.service = s.arch.service := by
  unfold takeEntry; split <;> simp

@[simp] theorem foldEntries_stage (n : Nat) (m : MStamp) (l : List MinuteEntry) (s : State) :
    (l.foldl (takeEntry n m) s).arch.mount = s.arch.mount ∧
    (l.foldl (takeEntry n m) s).arch.resume = s.arch.resume ∧
    (l.foldl (takeEntry n m) s).arch.service = s.arch.service := by
  induction l generalizing s <;> simp_all

@[simp] theorem takeMinute_stage (n : Nat) (m : MinuteMsg) (s : State) :
    (takeMinute n m s).arch.mount = s.arch.mount ∧
    (takeMinute n m s).arch.resume = s.arch.resume ∧
    (takeMinute n m s).arch.service = s.arch.service := by
  unfold takeMinute; dsimp only; split <;> simp

@[simp] theorem closeMinute_stage (m : IStamp) (n : Nat) (f l : Bool) (s : State) :
    (closeMinute m n f l s).arch.mount = s.arch.mount ∧
    (closeMinute m n f l s).arch.resume = s.arch.resume ∧
    (closeMinute m n f l s).arch.service = s.arch.service := by
  simp [closeMinute]

@[simp] theorem closeLastMinute_stage (m : IStamp) (n : Nat) (s : State) :
    (closeLastMinute m n s).arch.mount = s.arch.mount ∧
    (closeLastMinute m n s).arch.resume = s.arch.resume ∧
    (closeLastMinute m n s).arch.service = s.arch.service := by
  unfold closeLastMinute
  repeat' split
  all_goals simp

@[simp] theorem boundaryMinute_stage (n : Nat) (s : State) :
    (boundaryMinute n s).arch.mount = s.arch.mount ∧
    (boundaryMinute n s).arch.resume = s.arch.resume ∧
    (boundaryMinute n s).arch.service = s.arch.service := by
  unfold boundaryMinute
  repeat' split
  all_goals simp

@[simp] theorem switchCalibration_stage (m : IStamp) (s : State) :
    (switchCalibration m s).arch.mount = s.arch.mount ∧
    (switchCalibration m s).arch.resume = s.arch.resume ∧
    (switchCalibration m s).arch.service = s.arch.service := by
  unfold switchCalibration; dsimp only; split <;> simp

@[simp] theorem startInterval_stage (m : IStamp) (s : State) :
    (startInterval m s).arch.mount = s.arch.mount ∧
    (startInterval m s).arch.resume = s.arch.resume ∧
    (startInterval m s).arch.service = s.arch.service := by
  simp [startInterval]

@[simp] theorem closeRecorded_stage (c m : IStamp) (n : Notice) (s : State) :
    (closeRecorded c m n s).arch.mount = s.arch.mount ∧
    (closeRecorded c m n s).arch.resume = s.arch.resume ∧
    (closeRecorded c m n s).arch.service = s.arch.service := by
  simp [closeRecorded]

@[simp] theorem closeAligning_stage (c m : IStamp) (s : State) :
    (closeAligning c m s).arch.mount = s.arch.mount ∧
    (closeAligning c m s).arch.resume = s.arch.resume ∧
    (closeAligning c m s).arch.service = s.arch.service := by
  unfold closeAligning; dsimp only; split <;> simp

@[simp] theorem closeInterval_stage (k : CloseKind) (o : Int) (n : Nat) (s : State) :
    (closeInterval k o n s).arch.mount = s.arch.mount ∧
    (closeInterval k o n s).arch.resume = s.arch.resume ∧
    (closeInterval k o n s).arch.service = s.arch.service := by
  unfold closeInterval
  dsimp only
  repeat' split
  all_goals simp

@[simp] theorem endFetch_stage (o : Reply) (ft : FetchState) (s : State) :
    (endFetch o ft s).arch.mount = s.arch.mount ∧ (endFetch o ft s).arch.resume = s.arch.resume ∧
    (endFetch o ft s).arch.service = s.arch.service := by
  simp [endFetch]

@[simp] theorem advanceFetch_stage (s : State) :
    (advanceFetch s).arch.mount = s.arch.mount ∧ (advanceFetch s).arch.resume = s.arch.resume ∧
    (advanceFetch s).arch.service = s.arch.service := by
  cases h : s.arch.fetch with
  | none => simp [advanceFetch, h]
  | some ft =>
    obtain ⟨-, e⟩ | ⟨-, e⟩ | ⟨-, e⟩ | ⟨-, e⟩ := advanceFetch_cases s ft h <;> simp [e]

@[simp] theorem fetchReadDone_stage (b : List Byte) (s : State) :
    (fetchReadDone b s).arch.mount = s.arch.mount ∧
    (fetchReadDone b s).arch.resume = s.arch.resume ∧
    (fetchReadDone b s).arch.service = s.arch.service := by
  unfold fetchReadDone
  dsimp only
  repeat' split
  all_goals simp

@[simp] theorem handleFetch_stage (f : RxFrame) (s : State) :
    (handleFetch f s).arch.mount = s.arch.mount ∧ (handleFetch f s).arch.resume = s.arch.resume ∧
    (handleFetch f s).arch.service = s.arch.service := by
  unfold handleFetch; dsimp only; split <;> simp

@[simp] theorem handleRelease_stage (f : RxFrame) (s : State) :
    (handleRelease f s).arch.mount = s.arch.mount ∧
    (handleRelease f s).arch.resume = s.arch.resume ∧
    (handleRelease f s).arch.service = s.arch.service := by
  unfold handleRelease; dsimp only; split <;> simp [Archive.release, Archive.setArea]

@[simp] theorem handleDriftReset_stage (f : RxFrame) (s : State) :
    (handleDriftReset f s).arch.mount = s.arch.mount ∧
    (handleDriftReset f s).arch.resume = s.arch.resume ∧
    (handleDriftReset f s).arch.service = s.arch.service := by
  unfold handleDriftReset; dsimp only; split <;> simp

@[simp] theorem disagree_stage (k n : Nat) (m : IStamp) (s : State) :
    (disagree k n m s).arch.mount = s.arch.mount ∧
    (disagree k n m s).arch.resume = s.arch.resume ∧
    (disagree k n m s).arch.service = s.arch.service := by
  unfold disagree; dsimp only; split <;> simp

@[simp] theorem takeDuplicate_stage (k : Byte) (f : RxFrame) (s : State) :
    (takeDuplicate k f s).arch.mount = s.arch.mount ∧
    (takeDuplicate k f s).arch.resume = s.arch.resume ∧
    (takeDuplicate k f s).arch.service = s.arch.service := by
  unfold takeDuplicate; dsimp only; split <;> simp

@[simp] theorem endBusFault_stage (s : State) :
    (endBusFault s).arch.mount = s.arch.mount ∧ (endBusFault s).arch.resume = s.arch.resume ∧
    (endBusFault s).arch.service = s.arch.service := by
  unfold endBusFault; dsimp only; split <;> simp

@[simp] theorem eraseDone_stage (e : EraseRun) (s : State) :
    (eraseDone e s).arch.mount = s.arch.mount ∧ (eraseDone e s).arch.resume = s.arch.resume ∧
    (eraseDone e s).arch.service = s.arch.service := by
  unfold eraseDone openWanted Archive.makeOpening Archive.eraseStep Archive.setArea
  dsimp only
  repeat' split
  all_goals simp

end Sys2Proof.Machine
end

section
/-! The invariant of the station state (spec/10, R181) with the bounds of the clock and the strays
(spec/03, R30, R36, R37): what it means to keep it, and that resets and loading do. -/

namespace Sys2Proof.Machine

/-! ## Keeping the invariant -/

/-- What happens from `s` to `t` keeps the station state in keeping, and with it the bounds of the clock
and the strays. -/
structure State.Keeps (s t : State) : Prop where
  kept : s.InKeeping → t.InKeeping ∧ (s.ClockOk → t.ClockOk)

namespace State.Keeps

theorem refl (s : State) : s.Keeps s := ⟨fun h => ⟨h, id⟩⟩

theorem trans {s t u : State} (h : s.Keeps t) (k : t.Keeps u) : s.Keeps u := by
  refine ⟨fun hs => ?_⟩
  obtain ⟨ht, hst⟩ := h.kept hs
  obtain ⟨hu, htu⟩ := k.kept ht
  exact ⟨hu, htu ∘ hst⟩

end State.Keeps

/-- Nothing changes that the invariant speaks of. -/
structure State.SameStation (s t : State) : Prop where
  held : t.pins.resetHeld = s.pins.resetHeld
  loader : t.loader = s.loader
  mount : t.arch.mount = s.arch.mount
  resume : t.arch.resume = s.arch.resume
  clock : t.mark.clock = s.mark.clock
  sync : t.mark.sync = s.mark.sync
  strays : t.mark.strays = s.mark.strays

theorem State.cfg_of_image {s t : State} (h : t.loader.image = s.loader.image) : t.cfg = s.cfg := by
  unfold State.cfg; rw [h]

/-- The bounds are those of the clock, the status and the strays, the image and the loader's phase. -/
theorem State.ClockOk.of_eq {s t : State} (hclock : t.mark.clock = s.mark.clock)
    (hsync : t.mark.sync = s.mark.sync) (hstrays : t.mark.strays = s.mark.strays)
    (himage : t.loader.image = s.loader.image) (hphase : t.loader.phase = s.loader.phase)
    (h : s.ClockOk) : t.ClockOk := by
  obtain ⟨h1, h2, h3, h4, h5⟩ := h
  constructor
  all_goals simpa only [hclock, hsync, hstrays, hphase, State.cfg_of_image himage]

theorem State.SameStation.keeps {s t : State} (h : s.SameStation t) : s.Keeps t := by
  obtain ⟨hheld, hloader, hmount, hresume, hclock, hsync, hstrays⟩ := h
  refine ⟨fun ⟨h1, h2, h3, h4⟩ => ?_⟩
  refine ⟨⟨?_, ?_, ?_, ?_⟩,
    .of_eq hclock hsync hstrays (by rw [hloader]) (by rw [hloader])⟩
  all_goals simpa only [hheld, hloader, hmount, hresume]

/-- Whatever next state an outcome gives, the invariant is kept. -/
structure State.Allows (s : State) (o : Host.Outcome State Fault Refusal) : Prop where
  kept : ∀ t, o = .next t → s.Keeps t

namespace State.Allows

theorem next {s t : State} (h : s.Keeps t) : s.Allows (.next t) := by
  refine ⟨fun u e => ?_⟩
  injection e with e
  exact e ▸ h

theorem same {s t : State} (h : s.SameStation t) : s.Allows (.next t) := next h.keeps

theorem idle (s : State) : s.Allows (.next s) := next (.refl s)

theorem fault (s : State) (f : Fault) : s.Allows (.fault f) :=
  ⟨fun _ e => by injection e⟩

end State.Allows

theorem State.InKeeping.mount_off {s : State} (h : s.InKeeping)
    (hs : s.loader.station ≠ .mounting) : s.arch.mount = .off :=
  not_not.mp (mt h.mounting hs)

theorem State.InKeeping.resume_off {s : State} (h : s.InKeeping)
    (hs : s.loader.station ≠ .resuming) : s.arch.resume = .off :=
  not_not.mp (mt h.resuming hs)

theorem State.InKeeping.phase_done {s : State} (h : s.InKeeping)
    (hs : s.loader.station ≠ .loading) : s.loader.phase = .done :=
  not_not.mp (mt h.loading hs)

/-! ## Resets (R179, R180) -/

/-- A station LOADING with nothing loaded and its blocks as after reset meets the invariant. -/
theorem unloaded_ok {s : State} (hstation : s.loader.station = .loading)
    (himage : s.loader.image = none) (hheld : s.pins.resetHeld = true → s.loader.phase = .off)
    (hmark : s.mark = MarkUnit.reset) (harch : s.arch = Archive.reset) :
    s.InKeeping ∧ s.ClockOk := by
  have hcfg : s.cfg = blankImage := by unfold State.cfg; rw [himage]; rfl
  refine ⟨⟨hheld, fun _ => hstation, ?_, ?_⟩, ⟨?_, ?_, ?_, ?_, ?_⟩⟩
  · simp [harch, Archive.reset]
  · simp [harch, Archive.reset]
  · simp [hmark, MarkUnit.reset]
  · rw [hcfg]; decide
  · simp [hmark, MarkUnit.reset]
  · simp [hmark, MarkUnit.reset]
  · simp [hmark, MarkUnit.reset]

theorem holdReset_keeps (s : State) : s.Keeps (holdReset s) := by
  obtain ⟨hin, hclock⟩ := unloaded_ok (s := holdReset s) rfl rfl (fun _ => rfl) rfl rfl
  exact ⟨fun _ => ⟨hin, fun _ => hclock⟩⟩

theorem restartReset_keeps (s : State) : s.Keeps (restartReset s) := by
  obtain ⟨hin, hclock⟩ := unloaded_ok (s := restartReset s) rfl rfl (fun h => nomatch h) rfl rfl
  exact ⟨fun _ => ⟨hin, fun _ => hclock⟩⟩

/-! ## Loading (R182, R190, R191) -/

/-- The end of a reset period begins the read of the header: the loader was off. -/
theorem beginLoading_keeps {s : State} (hr : s.pins.resetHeld = true) :
    s.Keeps (beginLoading s) := by
  refine ⟨fun h => ?_⟩
  have hoff : s.loader.phase ≠ .done := by rw [h.held hr]; nofun
  have hstation := h.loading hoff
  refine ⟨⟨(nomatch ·), fun _ => hstation, h.mounting, h.resuming⟩, fun hc => ?_⟩
  exact ⟨hc.clock, hc.limit, hc.strays, hc.locked, fun _ => hc.loading hoff⟩

/-- A read of the configuration line is under way. -/
def Loader.Reading (l : Loader) : Prop := l.phase ≠ .off ∧ l.phase ≠ .done

/-- A refused image halts the station, its clock stopped and no image loaded. -/
theorem refuseImage_keeps {s : State} (r : LoadRefusal) (j : Option Joined)
    (hl : s.loader.Reading) : s.Keeps (refuseImage r j s) := by
  refine ⟨fun h => ?_⟩
  have hstation := h.loading hl.2
  have hmount := h.mount_off (by rw [hstation]; nofun)
  have hresume := h.resume_off (by rw [hstation]; nofun)
  refine ⟨⟨fun hheld => absurd (h.held hheld) hl.1, fun hp => absurd rfl hp,
    fun hm => absurd hmount hm, fun hr => absurd hresume hr⟩, fun _ => ?_⟩
  exact ⟨nofun, show 1 ≤ blankImage.station.strayK ∧ blankImage.station.strayK ≤ 7 by decide,
    Nat.zero_le _, nofun, fun hp => absurd rfl hp⟩

/-- An accepted image brings MOUNTING, with K within its bounds. -/
theorem acceptImage_keeps {s : State} {img : Image} (hl : s.loader.Reading)
    (hk : 1 ≤ img.station.strayK ∧ img.station.strayK ≤ 7) : s.Keeps (acceptImage img s) := by
  refine ⟨fun h => ?_⟩
  have hstation := h.loading hl.2
  have hresume := h.resume_off (by rw [hstation]; nofun)
  have hloader : (acceptImage img s).loader = ⟨.mounting, .done, none, none, some img⟩ := by
    simp [acceptImage]
  have hmark : (acceptImage img s).mark = s.mark := by simp [acceptImage]
  have hpins : (acceptImage img s).pins = s.pins := by simp [acceptImage]
  have hsame : (acceptImage img s).arch.resume = s.arch.resume := by simp [acceptImage, beginMount]
  refine ⟨⟨?_, ?_, ?_, ?_⟩, fun hc => ?_⟩
  · rw [hpins]; exact fun hheld => absurd (h.held hheld) hl.1
  · rw [hloader]; exact fun hp => absurd rfl hp
  · rw [hloader]; exact fun _ => rfl
  · rw [hsame]; exact fun hr => absurd hresume hr
  · have hcfg : (acceptImage img s).cfg = img := by unfold State.cfg; rw [hloader]; rfl
    obtain ⟨hclock, hsync, hstrays⟩ := hc.loading hl.2
    constructor
    · rw [hmark]; exact hc.clock
    · rw [hcfg]; exact hk
    · rw [hmark]; exact hc.strays
    · rw [hmark, hsync]; nofun
    · rw [hloader]; exact fun hp => absurd rfl hp

theorem firstBad_eq_none {l : List LoadCheck} (h : firstBad l = none) {c : LoadCheck} (hc : c ∈ l) :
    c.1 = true := by
  unfold firstBad at h
  rw [Option.map_eq_none_iff, List.find?_eq_none] at h
  simpa using h c hc

/-- An image that passes its checks has passed the ranges of R186 to R188. -/
theorem imageRefusal_eq_none {image : List Byte} {count : Nat}
    (h : imageRefusal image count = none) :
    firstBad (rangeChecks image (readTable count image)) = none := by
  unfold imageRefusal at h
  dsimp only at h
  repeat' split at h
  · cases h
  · cases h
  · cases h
  · cases h
  · assumption

/-- The K of an image that passes is 1 to 7 (R186). -/
theorem readImage_strayK {image : List Byte} {count : Nat}
    (h : imageRefusal image count = none) :
    1 ≤ (readImage image (readTable count image)).station.strayK ∧
      (readImage image (readTable count image)).station.strayK ≤ 7 := by
  have hrange := firstBad_eq_none (imageRefusal_eq_none h)
    (c := rangeCheck 1 0 (sectionBytes 1 none image (readTable count image)) 2 1 1 7)
    (by simp [rangeChecks, stationChecks])
  simpa [rangeCheck, inRange, readImage, readStation] using hrange

/-- The end of a read of the configuration line. -/
theorem endEepromRead_keeps {s : State} (ack : Bool) (bytes : List Byte) (len : Nat)
    {use : State → State} (hl : s.loader.Reading) (hu : s.Keeps (use s)) :
    s.Keeps (endEepromRead ack bytes len use s) := by
  unfold endEepromRead
  split
  · exact refuseImage_keeps _ _ hl
  · split
    · exact hu
    · exact .refl s

theorem headerRead_keeps {s : State} (head : List Byte) (hl : s.loader.Reading) :
    s.Keeps (headerRead head s) := by
  unfold headerRead
  split
  · exact refuseImage_keeps _ _ hl
  · refine ⟨fun h => ?_⟩
    have hstation := h.loading hl.2
    refine ⟨⟨fun hheld => absurd (h.held hheld) hl.1, fun _ => hstation, h.mounting, h.resuming⟩,
      fun hc => ?_⟩
    exact ⟨hc.clock, hc.limit, hc.strays, hc.locked, fun _ => hc.loading hl.2⟩

theorem imageRead_keeps {s : State} (head image : List Byte) (hl : s.loader.Reading) :
    s.Keeps (imageRead head image s) := by
  unfold imageRead
  split
  · exact refuseImage_keeps _ _ hl
  · exact acceptImage_keeps hl (readImage_strayK ‹_›)

/-- EEPROM_READ_DONE in every phase of the loader. -/
theorem execEepromReadDone_allows (ack : Bool) (bytes : List Byte) (s : State) :
    s.Allows (execEepromReadDone ack bytes s) := by
  unfold execEepromReadDone
  split
  · have hl : s.loader.Reading := by constructor <;> simp [*]
    exact .next (endEepromRead_keeps _ _ _ hl (headerRead_keeps _ hl))
  · have hl : s.loader.Reading := by constructor <;> simp [*]
    exact .next (endEepromRead_keeps _ _ _ hl (imageRead_keeps _ _ hl))
  · exact .idle s

end Sys2Proof.Machine
end

section
/-! Mount and resumption (spec/08, R152 to R155) keep the invariant of the station state: what a turn of
either can do, said once. -/

namespace Sys2Proof.Machine

/-! ## Mount (R152) -/

/-- What a turn of mount can do of what the invariant speaks of: mount goes on, or it completes and the
station is UNSYNCED. -/
structure MountTurn (s t : State) : Prop where
  pins : t.pins = s.pins
  mark : t.mark = s.mark
  phase : t.loader.phase = s.loader.phase
  image : t.loader.image = s.loader.image
  resume : t.arch.resume = s.arch.resume
  outcome : t.loader = s.loader ∨ (t.loader.station = .unsynced ∧ t.arch.mount = .off)

/-- A turn of mount is taken only while mount runs, the station MOUNTING. -/
theorem MountTurn.keeps {s t : State} (h : MountTurn s t) (hm : s.arch.mount ≠ .off) :
    s.Keeps t := by
  obtain ⟨hpins, hmark, hphase, himage, hresume, hout⟩ := h
  refine ⟨fun hs => ?_⟩
  have hstation := hs.mounting hm
  have hdone := hs.phase_done (by rw [hstation]; nofun)
  have hoff := hs.resume_off (by rw [hstation]; nofun)
  refine ⟨⟨?_, ?_, ?_, ?_⟩, .of_eq (by rw [hmark]) (by rw [hmark]) (by rw [hmark]) himage hphase⟩
  · rw [hpins, hphase]; exact hs.held
  · rw [hphase]; exact fun hp => absurd hdone hp
  · rcases hout with hl | ⟨-, hend⟩
    · rw [hl]; exact fun _ => hstation
    · exact fun h => absurd hend h
  · rw [hresume]; exact fun h => absurd hoff h

theorem mountRead_turn (a : Area) (k : RecordKind) (slot : Nat) (s : State) :
    MountTurn s (mountRead a k slot s) := by
  constructor <;> simp [mountRead]

/-- A turn goes on from a state that differs in the archive alone, resumption aside. -/
theorem MountTurn.of_arch {s t : State} {a : Archive} (h : MountTurn { s with arch := a } t)
    (hr : a.resume = s.arch.resume) : MountTurn s t :=
  ⟨h.pins, h.mark, h.phase, h.image, h.resume.trans hr, h.outcome⟩

theorem completeMount_turn (s : State) : MountTurn s (completeMount s) := by
  constructor <;> simp [completeMount]

theorem searchEvents_turn (a : Area) (lo hi : Nat) (s : State) :
    MountTurn s (searchEvents a lo hi s) := by
  unfold searchEvents beginDays
  split
  · exact .of_arch (mountRead_turn ..) rfl
  · exact .of_arch (mountRead_turn ..) rfl

theorem beginSearch_turn (s : State) : MountTurn s (beginSearch s) := by
  unfold beginSearch
  split
  · exact searchEvents_turn ..
  · exact completeMount_turn s

theorem closeExtra_turn (todo : List Area) (s : State) : MountTurn s (closeExtra todo s) := by
  unfold closeExtra
  split
  · exact beginSearch_turn s
  · exact ⟨rfl, rfl, rfl, rfl, rfl, .inl rfl⟩

theorem mountReadDone_turn (req : ReadReq) (s : State) : MountTurn s (mountReadDone req s) := by
  unfold mountReadDone
  dsimp only
  split
  · split
    · exact ⟨rfl, rfl, rfl, rfl, rfl, .inl rfl⟩
    · exact .of_arch (closeExtra_turn ..) rfl
  · split
    · split <;> exact searchEvents_turn ..
    · exact ⟨rfl, rfl, rfl, rfl, rfl, .inl rfl⟩
  · repeat' split
    · exact .of_arch (completeMount_turn _) rfl
    · exact completeMount_turn s
    · exact .of_arch (mountRead_turn ..) rfl
    · exact ⟨rfl, rfl, rfl, rfl, rfl, .inl rfl⟩
  · exact ⟨rfl, rfl, rfl, rfl, rfl, .inl rfl⟩

/-- While mount is off a read of mount has no effect. -/
theorem mountReadDone_keeps (req : ReadReq) (s : State) : s.Keeps (mountReadDone req s) := by
  by_cases hm : s.arch.mount = .off
  · have : mountReadDone req s = s := by unfold mountReadDone; rw [hm]
    rw [this]; exact .refl s
  · exact (mountReadDone_turn req s).keeps hm

theorem extraClosed_keeps (a : Area) (s : State) : s.Keeps (extraClosed a s) := by
  unfold extraClosed
  split
  · have hm : s.arch.mount ≠ .off := by simp [*]
    exact MountTurn.keeps (.of_arch (closeExtra_turn ..) rfl) hm
  · exact .refl s

theorem foldl_markClosed_resume (todo : List Area) (a : Archive) :
    (todo.foldl Archive.markClosed a).resume = a.resume := by
  induction todo generalizing a with
  | nil => rfl
  | cons i todo ih => exact (ih _).trans rfl

theorem extraFailed_keeps (s : State) : s.Keeps (extraFailed s) := by
  unfold extraFailed
  split
  · have hm : s.arch.mount ≠ .off := by simp [*]
    exact MountTurn.keeps (.of_arch (beginSearch_turn _) (foldl_markClosed_resume ..)) hm
  · exact .refl s

/-! ## Resumption (R49, R153 to R155) -/

/-- What resumption can do of what the invariant speaks of: it goes on, it ends in ALIGNING, or it halts
the station, its clock stopped. -/
structure Resumed (s t : State) : Prop where
  pins : t.pins = s.pins
  phase : t.loader.phase = s.loader.phase
  image : t.loader.image = s.loader.image
  mount : t.arch.mount = s.arch.mount
  service : t.arch.service = s.arch.service
  outcome : (t.loader = s.loader ∧ t.mark = s.mark) ∨
    (t.loader.station = .aligning ∧ t.mark = s.mark ∧ t.arch.resume = .off) ∨
    (t.loader.station = .halted ∧ t.mark = s.mark.halt ∧ t.arch.resume = .off)

namespace Resumed

/-- Resumption acts only while the station is RESUMING. -/
theorem keeps {s t : State} (h : Resumed s t) (hr : s.loader.station = .resuming) : s.Keeps t := by
  obtain ⟨hpins, hphase, himage, hmount, -, hout⟩ := h
  refine ⟨fun hs => ?_⟩
  have hdone := hs.phase_done (by rw [hr]; nofun)
  have hoff := hs.mount_off (by rw [hr]; nofun)
  refine ⟨⟨?_, ?_, ?_, ?_⟩, fun hc => ?_⟩
  · rw [hpins, hphase]; exact hs.held
  · rw [hphase]; exact fun hp => absurd hdone hp
  · rw [hmount]; exact fun hm => absurd hoff hm
  · rcases hout with ⟨hl, -⟩ | ⟨-, -, hend⟩ | ⟨-, -, hend⟩
    · rw [hl]; exact fun _ => hr
    · exact fun h => absurd hend h
    · exact fun h => absurd hend h
  · have hmark : t.mark = s.mark ∨ t.mark = s.mark.halt := by
      rcases hout with ⟨-, h⟩ | ⟨-, h, -⟩ | ⟨-, h, -⟩
      · exact .inl h
      · exact .inl h
      · exact .inr h
    rcases hmark with hmark | hmark
    · exact hc.of_eq (by rw [hmark]) (by rw [hmark]) (by rw [hmark]) himage hphase
    · have hlimit : 1 ≤ t.cfg.station.strayK ∧ t.cfg.station.strayK ≤ 7 := by
        rw [State.cfg_of_image himage]; exact hc.limit
      constructor
      · rw [hmark]; nofun
      · exact hlimit
      · rw [hmark]; exact Nat.zero_le 7
      · rw [hmark]; nofun
      · rw [hphase]; exact fun hp => absurd hdone hp

theorem refl (s : State) : Resumed s s := ⟨rfl, rfl, rfl, rfl, rfl, .inl ⟨rfl, rfl⟩⟩

/-- Resumption that has so far only gone on acts again. -/
theorem trans {s u t : State} (h : Resumed s u) (hl : u.loader = s.loader) (hm : u.mark = s.mark)
    (k : Resumed u t) : Resumed s t := by
  obtain ⟨k1, k2, k3, k4, k5, k6⟩ := k
  rw [hl, hm] at k6
  exact ⟨k1.trans h.pins, k2.trans h.phase, k3.trans h.image, k4.trans h.mount,
    k5.trans h.service, k6⟩

/-- Resumption acts on a state that differs in the engine alone. -/
theorem of_eng {s t : State} {e : Engine} (h : Resumed { s with eng := e } t) : Resumed s t :=
  ⟨h.pins, h.phase, h.image, h.mount, h.service, h.outcome⟩

/-- The sequencer's selection is no part of resumption. -/
theorem then_select {s t : State} (h : Resumed s t) : Resumed s (select t) := by
  obtain ⟨hpins, hphase, himage, hmount, hservice, hout⟩ := h
  constructor <;> simpa

end Resumed

theorem haltBehind_resumed (y : Option Nat) (b : List Byte) (s : State) :
    Resumed s (haltBehind y b s) := by
  constructor <;> simp [haltBehind]

theorem finishResume_resumed (s : State) : Resumed s (finishResume s) := by
  constructor <;> simp [finishResume]

theorem setResume_resumed (r : Resume) (s : State) : Resumed s (setResume r s) := by
  constructor <;> simp [setResume_arch]

/-- Resumption goes on to its next read. -/
theorem nextRead_resumed (a : Area) (slot : Nat) (r : Resume) (s : State) :
    Resumed s (resumeRead a slot (setResume r s)) := by
  constructor <;> simp [resumeRead, setResume_arch]

theorem closeYear_resumed (late : Bool) (y : Nat) (s : State) :
    Resumed s (closeYear late y s).1 := by
  constructor <;> simp

theorem settleDay_resumed (d : Day) (s : State) : Resumed s (settleDay d s) := by
  unfold settleDay
  split
  · dsimp only
    split
    · exact .of_eng (nextRead_resumed ..)
    · exact .trans (closeYear_resumed ..) rfl rfl (setResume_resumed ..)
  · exact .refl s

theorem settleNext_resumed (r : Resume) (d : Day) (s : State) :
    Resumed s (settleDay d (setResume r s)) :=
  .trans (setResume_resumed r s) rfl rfl (settleDay_resumed d _)

theorem submitJob_resumed (j : Job) (s : State) : Resumed s (submitJob j s) := by
  constructor <;> simp

theorem drainJobs_resumed (l : List Job) (s : State) : Resumed s (drainJobs l s).2 := by
  induction l generalizing s with
  | nil => exact .refl s
  | cons j l ih =>
    unfold drainJobs
    split
    · exact .trans (submitJob_resumed j s) rfl rfl (ih _)
    · exact .refl s

theorem pumpWith_resumed (n : Nat) (s : State) : Resumed s (pumpWith n s) := by
  induction n generalizing s with
  | zero => exact .refl s
  | succ n ih =>
    unfold pumpWith
    split
    · rename_i jobs next hr
      have hdrained {t : State} (h : Resumed (drainJobs jobs s).2 t) : Resumed s t :=
        .trans (drainJobs_resumed jobs s) (by simp) (by simp) h
      dsimp only
      split
      · split
        · exact hdrained (.trans (settleNext_resumed ..) (by simp) (by simp) (ih _))
        · exact hdrained (finishResume_resumed _)
      · exact hdrained (setResume_resumed ..)
    · exact .refl s

theorem pump_resumed (s : State) : Resumed s (pump s) := pumpWith_resumed 3 s

/-- A day is settled and the late jobs that follow are submitted. -/
theorem pump_settleDay_resumed (d : Day) (s : State) : Resumed s (pump (settleDay d s)) :=
  .trans (settleDay_resumed d s) (by simp) (by simp) (pump_resumed _)

/-- Late jobs are left waiting and submitted while there is room. -/
theorem pump_setResume_resumed (r : Resume) (s : State) : Resumed s (pump (setResume r s)) :=
  .trans (setResume_resumed r s) rfl rfl (pump_resumed _)

theorem dayRead_resumed (d : Day) (s : State) : Resumed s (dayRead d s) := by
  unfold dayRead
  split
  · exact finishResume_resumed s
  · exact .of_eng (pump_setResume_resumed ..)

theorem beginSettle_resumed (noRecords : Bool) (s : State) :
    Resumed s (beginSettle noRecords s) := by
  unfold beginSettle
  split
  · exact .of_eng (pump_settleDay_resumed ..)
  · dsimp only
    split
    · exact .of_eng (pump_settleDay_resumed ..)
    · exact .of_eng (nextRead_resumed ..)
  · exact .refl s

theorem resumeOpen_resumed (i : Area) (e : AreaEntry) (now : IStamp) (s : State) :
    Resumed s (resumeOpen i e now s) := by
  unfold resumeOpen
  dsimp only
  repeat' split
  · exact haltBehind_resumed ..
  · exact haltBehind_resumed ..
  · exact nextRead_resumed ..
  · exact beginSettle_resumed ..
  · exact nextRead_resumed ..
  · exact beginSettle_resumed ..

theorem makeOpening_stage (o : Opening) (a : Archive) :
    (a.makeOpening o).mount = a.mount ∧ (a.makeOpening o).resume = a.resume ∧
      (a.makeOpening o).service = a.service := by
  unfold Archive.makeOpening; split <;> exact ⟨rfl, rfl, rfl⟩

theorem resumeClosed_resumed (t : Areas AreaEntry) (now : IStamp) (s : State) :
    Resumed s (resumeClosed t now s) := by
  have hend : Resumed s (finishResume { s with
      arch := s.arch.makeOpening ⟨openingArea t, now.year⟩
      eng := { s.eng with year := YearCounters.cleared } }) := by
    constructor <;> simp [finishResume, makeOpening_stage]
  have hhalt := haltBehind_resumed none (istampBe none) s
  unfold resumeClosed
  dsimp only
  split <;> split
  · exact hhalt
  · exact hend
  · exact hhalt
  · exact hend

/-- Resumption begins on a state whose record queue is served from here on. -/
theorem beginResume_resumed (s : State) :
    Resumed { s with arch := { s.arch with service := true } } (beginResume s) := by
  unfold beginResume
  dsimp only
  split
  · exact .then_select (resumeOpen_resumed ..)
  · exact resumeClosed_resumed ..
  · exact .refl _

theorem takeStored_resumed (bytes : List Byte) (s : State) : Resumed s (takeStored bytes s) := by
  constructor <;> simp

theorem resumeReadDone_resumed (bytes : List Byte) (s : State) :
    Resumed s (resumeReadDone bytes s) := by
  unfold resumeReadDone
  dsimp only
  split
  · split
    · repeat' split
      · exact haltBehind_resumed ..
      · exact beginSettle_resumed ..
      · exact beginSettle_resumed ..
      · exact nextRead_resumed ..
    · repeat' split
      · exact pump_settleDay_resumed ..
      · exact nextRead_resumed ..
      · exact pump_settleDay_resumed ..
    · refine .trans (takeStored_resumed bytes s) (by simp) (by simp) ?_
      split
      · exact nextRead_resumed ..
      · exact dayRead_resumed ..
    · exact .refl s
  · exact .refl s

/-- With resumption off a read of resumption has no effect. -/
theorem resumeReadDone_keeps (bytes : List Byte) (s : State) :
    s.Keeps (resumeReadDone bytes s) := by
  refine ⟨fun h => ?_⟩
  by_cases hr : s.arch.resume = .off
  · have hid : resumeReadDone bytes s = s := by unfold resumeReadDone; rw [hr]; split <;> rfl
    rw [hid]; exact (State.Keeps.refl s).kept h
  · exact (resumeReadDone_resumed bytes s).keeps (h.resuming hr) |>.kept h

theorem pump_keeps (s : State) : s.Keeps (pump s) := by
  refine ⟨fun h => ?_⟩
  by_cases hr : s.arch.resume = .off
  · have hid : pump s = s := by unfold pump pumpWith; rw [hr]
    rw [hid]; exact (State.Keeps.refl s).kept h
  · exact (pump_resumed s).keeps (h.resuming hr) |>.kept h

end Sys2Proof.Machine
end

section
/-! The Mark Unit (spec/03, R30 to R50) and the receive path (spec/09, R167 to R170) keep the invariant of
the station state. -/

namespace Sys2Proof.Machine

/-! ## The Mark Unit (R30 to R38, R48) -/

/-- What the Mark Unit can do with its clock running: the clock stays or takes a value within the
interval, the strays stay within their bounds, and the station may go on from ALIGNING to RECORDING. -/
structure MarkTurn (s t : State) : Prop where
  held : t.pins.resetHeld = s.pins.resetHeld
  phase : t.loader.phase = s.loader.phase
  image : t.loader.image = s.loader.image
  mount : t.arch.mount = s.arch.mount
  resume : t.arch.resume = s.arch.resume
  station : t.loader.station = s.loader.station ∨
    (s.loader.station = .aligning ∧ t.loader.station = .recording)
  clock : t.mark.clock = s.mark.clock ∨ ∃ c ≤ 1800000, t.mark.clock = some c
  strays : s.ClockOk → t.mark.strays ≤ 7 ∧
    (t.mark.sync = .locked → t.mark.strays < s.cfg.station.strayK)

theorem MarkTurn.keeps {s t : State} {c : Nat} (h : MarkTurn s t) (hrun : s.mark.clock = some c) :
    s.Keeps t := by
  obtain ⟨hheld, hphase, himage, hmount, hresume, hstation, hclock, hstrays⟩ := h
  refine ⟨fun ⟨h1, h2, h3, h4⟩ => ?_⟩
  have hstays {st : StationState} (hs : s.loader.station = st) (hne : st ≠ .aligning) :
      t.loader.station = st := by
    rcases hstation with h | ⟨h, -⟩
    · exact h.trans hs
    · exact absurd (hs.symm.trans h) hne
  refine ⟨⟨?_, ?_, ?_, ?_⟩, fun hc => ?_⟩
  · rw [hheld, hphase]; exact h1
  · rw [hphase]; exact fun hp => hstays (h2 hp) nofun
  · rw [hmount]; exact fun hm => hstays (h3 hm) nofun
  · rw [hresume]; exact fun hr => hstays (h4 hr) nofun
  · have hcfg := State.cfg_of_image himage
    constructor
    · intro c' hc'
      rcases hclock with h | ⟨d, hd, h⟩
      · exact hc.clock c' (h ▸ hc')
      · rw [h] at hc'; injection hc' with hc'; exact hc' ▸ hd
    · rw [hcfg]; exact hc.limit
    · exact (hstrays hc).1
    · rw [hcfg]; exact (hstrays hc).2
    · rw [hphase]
      intro hp
      rw [(hc.loading hp).1] at hrun
      cases hrun

/-- Outside ALIGNING a close leaves the loader. -/
theorem closeInterval_loader {s : State} (kind : CloseKind) (o : Int) (n : Nat)
    (ha : s.loader.station ≠ .aligning) : (closeInterval kind o n s).loader = s.loader := by
  unfold closeInterval
  split
  · rfl
  · dsimp only
    split
    · simp
    · exact absurd ‹_› ha
    · rfl

theorem closeInterval_turn (kind : CloseKind) (o : Int) (n : Nat) (s : State) :
    MarkTurn s (closeInterval kind o n s) := by
  have hclock : (closeInterval kind o n s).mark.clock = s.mark.clock ∨
      ∃ c ≤ 1800000, (closeInterval kind o n s).mark.clock = some c := by
    cases hcal : s.mark.calendar with
    | none => left; unfold closeInterval; rw [hcal]
    | some stamp => exact .inr ⟨0, by omega, (closeInterval_mark kind o n hcal).1⟩
  by_cases ha : s.loader.station = .aligning
  · cases hcal : s.mark.calendar with
    | none =>
      have hid : closeInterval kind o n s = s := by unfold closeInterval; rw [hcal]
      rw [hid]
      exact ⟨rfl, rfl, rfl, rfl, rfl, .inl rfl, .inl rfl, fun hc => ⟨hc.strays, hc.locked⟩⟩
    | some stamp =>
      obtain ⟨hloader, -, hstrays, -⟩ := closeInterval_aligned (m := s.mark) kind o n hcal ha
      refine ⟨by simp, by rw [hloader], by rw [hloader], by simp, by simp,
        .inr ⟨ha, by rw [hloader]⟩, hclock, fun hc => ?_⟩
      rw [hstrays]
      exact ⟨Nat.zero_le 7, fun _ => hc.limit.1⟩
  · have hloader := closeInterval_loader kind o n ha
    obtain ⟨hsync, hstrays⟩ := closeInterval_sync kind o n ha
    refine ⟨by simp, by rw [hloader], by rw [hloader], by simp, by simp,
      .inl (by rw [hloader]), hclock, fun hc => ?_⟩
    rw [hsync, hstrays]
    exact ⟨hc.strays, hc.locked⟩

/-- An accepted edge leaves no strays. -/
theorem acceptEdge_keeps {s : State} {c : Nat} (kind : CloseKind) (clock : Nat)
    (hrun : s.mark.clock = some c) : s.Keeps (acceptEdge kind clock s) := by
  unfold acceptEdge
  refine .trans (MarkTurn.keeps ?_ hrun)
    ((closeInterval_turn kind (signedOffset clock) clock _).keeps hrun)
  exact ⟨rfl, rfl, rfl, rfl, rfl, .inl rfl, .inl rfl,
    fun hc => ⟨Nat.zero_le 7, fun _ => hc.limit.1⟩⟩

/-- The K-th stray makes the station REALIGNING (R37). -/
theorem stray_turn {s : State} (hy : s.mark.sync = .locked) :
    MarkTurn s { s with mark := s.mark.stray s.cfg.station.strayK } := by
  refine ⟨rfl, rfl, rfl, rfl, rfl, .inl rfl, .inl rfl, fun hc => ?_⟩
  have hlt := hc.locked hy
  have hle := hc.limit.2
  constructor
  · show s.mark.strays + 1 ≤ 7
    omega
  · show (if s.mark.strays + 1 = s.cfg.station.strayK then MarkSync.realigning else s.mark.sync) =
      .locked → s.mark.strays + 1 < s.cfg.station.strayK
    split
    · nofun
    · omega

theorem actEdge_keeps {s : State} {c : Nat} (clock : Nat) (hrun : s.mark.clock = some c) :
    s.Keeps (actEdge clock s) := by
  unfold actEdge
  split
  · exact acceptEdge_keeps _ _ hrun
  · split
    · exact acceptEdge_keeps _ _ hrun
    · split
      · exact acceptEdge_keeps _ _ hrun
      · exact (stray_turn ‹_›).keeps hrun
    · exact .refl s

/-! ## Adoption of the calendar (R43 to R45) -/

/-- The station as resumption finds it after an adoption: RESUMING, the calendar and the clock set, the
record queue served. -/
def State.adopted (stamp : IStamp) (ms : Nat) (s : State) : State :=
  { s with
    mark := s.mark.adopt stamp ms
    loader := { s.loader with station := .resuming }
    arch := { s.arch with service := true } }

theorem adopt_resumed (stamp : IStamp) (ms : Nat) (s : State) :
    Resumed (s.adopted stamp ms) (adopt stamp ms s) :=
  beginResume_resumed { s with
    mark := s.mark.adopt stamp ms, loader := { s.loader with station := .resuming } }

/-- An UNSYNCED station adopts a calendar LOCKED without strays, its clock within the interval. -/
theorem adopted_keeps {s : State} {stamp : IStamp} {ms : Nat} (hu : s.loader.station = .unsynced)
    (hms : ms ≤ 1799999) : s.Keeps (s.adopted stamp ms) := by
  refine ⟨fun h => ?_⟩
  have hdone := h.phase_done (by rw [hu]; nofun)
  have hmount := h.mount_off (by rw [hu]; nofun)
  refine ⟨⟨h.held, fun hp => absurd hdone hp, fun hm => absurd hmount hm, fun _ => rfl⟩,
    fun hc => ?_⟩
  refine ⟨fun c hclock => ?_, hc.limit, Nat.zero_le 7, fun _ => hc.limit.1,
    fun hp => absurd hdone hp⟩
  injection hclock with hclock
  omega

theorem adopt_keeps {s : State} {stamp : IStamp} {ms : Nat} (hu : s.loader.station = .unsynced)
    (hms : ms ≤ 1799999) : s.Keeps (adopt stamp ms s) :=
  .trans (adopted_keeps hu hms) ((adopt_resumed stamp ms s).keeps rfl)

theorem disagree_same (kind source : Nat) (stamp : IStamp) (s : State) :
    s.SameStation (disagree kind source stamp s) := by
  refine ⟨by simp, by simp, by simp, by simp, ?_, ?_, ?_⟩
  all_goals unfold disagree; dsimp only; split <;> simp

theorem refuseTime_same (s : State) : s.SameStation (refuseTime s) := by
  constructor <;> rfl

theorem handleTime_keeps (f : RxFrame) (s : State) : s.Keeps (handleTime f s) := by
  unfold handleTime
  dsimp only
  split
  · exact .refl s
  · split
    · exact (refuseTime_same s).keeps
    · rename_i hvalid
      split
      · exact adopt_keeps ‹_› (by simp at hvalid; exact hvalid.2)
      · repeat' split
        · exact .refl s
        · exact (disagree_same ..).keeps
        · exact .refl s

theorem handleSummary_keeps (f : RxFrame) (s : State) : s.Keeps (handleSummary f s) := by
  unfold handleSummary
  dsimp only
  split
  · exact .refl s
  · split
    · exact (refuseTime_same s).keeps
    · split
      · exact adopt_keeps ‹_› (by omega)
      · repeat' split
        · exact .refl s
        · exact (disagree_same ..).keeps
        · exact .refl s

/-! ## The receive path (R167 to R170) -/

theorem countBad_same (s : State) : s.SameStation (countBad s) := by
  constructor <;> rfl

theorem handleMinute_same (f : RxFrame) (s : State) : s.SameStation (handleMinute f s) := by
  unfold handleMinute
  repeat' split
  all_goals constructor <;> simp

theorem serveRequest_same (kind : Nat) (f : RxFrame) (s : State) :
    s.SameStation (serveRequest kind f s) := by
  unfold serveRequest
  split <;> constructor <;> simp [handleStatus]

theorem handleRequest_same (kind : Nat) (f : RxFrame) (s : State) :
    s.SameStation (handleRequest kind f s) := by
  unfold handleRequest
  repeat' split
  · constructor <;> rfl
  · constructor <;> rfl
  · constructor <;> rfl
  · exact serveRequest_same kind f s

theorem dispatch_keeps (kind : Nat) (f : RxFrame) (s : State) : s.Keeps (dispatch kind f s) := by
  unfold dispatch dispatchBroadcast
  repeat' split
  · exact (countBad_same s).keeps
  · exact (handleMinute_same f s).keeps
  · exact .refl s
  · exact handleSummary_keeps f s
  · exact handleTime_keeps f s
  · exact .refl s
  · exact .refl s
  · exact .refl s
  · exact (handleRequest_same kind f s).keeps
  · exact .refl s

theorem takeDuplicate_same (kind : Byte) (f : RxFrame) (s : State) :
    s.SameStation (takeDuplicate kind f s) := by
  constructor <;> simp

theorem receive_keeps (kind : Byte) (f : RxFrame) (s : State) : s.Keeps (receive kind f s) := by
  unfold receive
  repeat' split
  · exact .refl s
  · exact (countBad_same s).keeps
  · exact (takeDuplicate_same kind f s).keeps
  · exact dispatch_keeps kind.toNat f s

end Sys2Proof.Machine
end

section
/-! Every command and every step keeps the invariant of the station state. -/

namespace Sys2Proof.Machine

/-! ## Commands that leave the station state -/

theorem execSampleWord_allows (w : BitVec 24) (s : State) : s.Allows (execSampleWord w s) := by
  unfold execSampleWord
  split
  · refine .same ?_
    cases hcheck : s.underCheck (wordChannel w) with
    | false => rw [takeWord_accumulated _ _ hcheck]; constructor <;> rfl
    | true => rw [takeWord_excluded _ _ hcheck]; constructor <;> rfl
  · exact .idle s

theorem execStatusInputEdge_allows (i : StatusInput) (level : Bool) (s : State) :
    s.Allows (execStatusInputEdge i level s) := by
  unfold execStatusInputEdge filterEdge
  dsimp only
  repeat' split
  all_goals refine .same ?_; constructor <;> simp

theorem execFilterTimerExpiry_allows (i : StatusInput) (s : State) :
    s.Allows (execFilterTimerExpiry i s) := by
  unfold execFilterTimerExpiry
  split
  · refine .same ?_; constructor <;> simp
  · exact .idle s

theorem execMinuteDeadlineExpiry_allows (place : Nat) (s : State) :
    s.Allows (execMinuteDeadlineExpiry place s) := by
  unfold execMinuteDeadlineExpiry
  repeat' split
  · refine .same ?_; constructor <;> simp
  · exact .idle s
  · exact .idle s

/-! ### The MARK line (R33, R34, R39, R40) -/

theorem execMarkFall_allows (s : State) : s.Allows (execMarkFall s) := by
  unfold execMarkFall MarkUnit.fall
  dsimp only
  repeat' split
  all_goals refine .same ?_; constructor <;> rfl

theorem execMarkRise_allows (s : State) : s.Allows (execMarkRise s) := by
  unfold execMarkRise
  dsimp only
  repeat' split
  all_goals refine .same ?_; constructor <;> rfl

theorem execMarkStuck_allows (s : State) : s.Allows (execMarkStuck s) := by
  unfold execMarkStuck
  split
  · refine .same ?_; constructor <;> simp
  · exact .idle s

theorem execMarkNormal_allows (s : State) : s.Allows (execMarkNormal s) := by
  unfold execMarkNormal
  split
  · refine .same ?_; constructor <;> simp
  · exact .idle s

/-! ### Checks (R117, R119, R125) -/

theorem execSettleExpiry_allows (s : State) : s.Allows (execSettleExpiry s) := by
  unfold execSettleExpiry
  split
  · refine .same ?_; constructor <;> rfl
  · exact .idle s

theorem execMeasureExpiry_allows (s : State) : s.Allows (execMeasureExpiry s) := by
  unfold execMeasureExpiry
  split
  · refine .same ?_; constructor <;> simp
  · exact .idle s

theorem execPurgeTimerExpiry_allows (s : State) : s.Allows (execPurgeTimerExpiry s) := by
  unfold execPurgeTimerExpiry
  repeat' split
  · refine .same ?_; constructor <;> simp
  · refine .same ?_; constructor <;> rfl
  · exact .idle s

theorem execPurgeCeiling_allows (s : State) : s.Allows (execPurgeCeiling s) := by
  unfold execPurgeCeiling
  split
  · refine .same ?_; constructor <;> simp
  · exact .idle s

/-! ### Attempts (R161 to R166) -/

theorem execMediumIdle_allows (s : State) : s.Allows (execMediumIdle s) := by
  unfold execMediumIdle
  split
  · refine .same ?_; constructor <;> rfl
  · exact .idle s

theorem execContentionLost_allows (s : State) : s.Allows (execContentionLost s) := by
  unfold execContentionLost
  split
  · refine .same ?_; constructor <;> rfl
  · exact .idle s

theorem execAttemptFailure_allows (s : State) : s.Allows (execAttemptFailure s) := by
  unfold execAttemptFailure
  dsimp only
  repeat' split
  · exact .idle s
  · refine .same ?_; constructor <;> simp
  · refine .same ?_; constructor <;> rfl

theorem execMinuteFrameStale_allows (s : State) : s.Allows (execMinuteFrameStale s) := by
  unfold execMinuteFrameStale
  repeat' split
  · exact .idle s
  · refine .same ?_; constructor <;> rfl
  · refine .same ?_; constructor <;> rfl
  · exact .idle s

/-! ### Erases and the fetch (R142 to R144, R150, R151) -/

theorem select_archiveFault_same (s : State) : s.SameStation (select (archiveFault s)) := by
  constructor <;> simp

theorem execFlashEraseDone_allows (ok : Bool) (s : State) : s.Allows (execFlashEraseDone ok s) := by
  unfold execFlashEraseDone
  repeat' split
  · exact .fault ..
  · refine .same ?_; constructor <;> simp
  · exact .same (select_archiveFault_same s)
  · exact .idle s

theorem execEraseTimeout_allows (s : State) : s.Allows (execEraseTimeout s) := by
  unfold execEraseTimeout
  repeat' split
  · exact .same (select_archiveFault_same s)
  · exact .fault ..
  · exact .idle s

theorem serveSuspended_stage (er : EraseRun) (a : Archive) :
    (serveSuspended er a).mount = a.mount ∧ (serveSuspended er a).resume = a.resume := by
  unfold serveSuspended; split <;> exact ⟨rfl, rfl⟩

theorem execEraseMinRun_allows (s : State) : s.Allows (execEraseMinRun s) := by
  unfold execEraseMinRun
  split
  · refine .same ?_; constructor <;> simp [serveSuspended_stage]
  · exact .idle s

theorem execEraseHoldoffExpiry_allows (s : State) : s.Allows (execEraseHoldoffExpiry s) := by
  unfold execEraseHoldoffExpiry
  split
  · refine .same ?_; constructor <;> rfl
  · exact .idle s

theorem execFetchNextRead_allows (s : State) : s.Allows (execFetchNextRead s) := by
  refine .same ?_; constructor <;> simp

theorem execFetchAbandon_allows (s : State) : s.Allows (execFetchAbandon s) := by
  unfold execFetchAbandon
  split
  · exact .idle s
  · refine .same ?_; constructor <;> rfl

/-! ## Commands that move the station state -/

theorem execResetPeriodEnd_allows (s : State) : s.Allows (execResetPeriodEnd s) := by
  unfold execResetPeriodEnd
  split
  · exact .next (beginLoading_keeps ‹_›)
  · exact .idle s

/-- A boundary up to the 29th sets the clock within the interval (R8). -/
theorem execMinuteBoundary_allows (s : State) : s.Allows (execMinuteBoundary s) := by
  unfold execMinuteBoundary
  repeat' split
  · refine .next (MarkTurn.keeps ?_ ‹_›)
    refine ⟨by simp, by simp, by simp, by simp, by simp, .inl (by simp),
      .inr ⟨60000 * s.mark.boundary, by omega, by simp⟩, fun hc => ?_⟩
    simpa using ⟨hc.strays, hc.locked⟩
  · exact .idle s
  · exact .idle s

theorem execOwnExpiry_allows (s : State) : s.Allows (execOwnExpiry s) := by
  unfold execOwnExpiry
  split
  · exact .next ((closeInterval_turn ..).keeps ‹_›)
  · exact .idle s

theorem execLowCheckExpiry_allows (s : State) : s.Allows (execLowCheckExpiry s) := by
  have hlow : s.SameStation { s with mark := { s.mark with lowCheck := none } } := by
    constructor <;> rfl
  unfold execLowCheckExpiry
  dsimp only
  repeat' split
  · exact .next (hlow.keeps.trans (actEdge_keeps _ ‹_›))
  · exact .same hlow
  · exact .same hlow
  · exact .idle s

theorem execBadFrame_allows (line : List Byte) (s : State) : s.Allows (execBadFrame line s) := by
  unfold execBadFrame
  split
  · exact .next (receive_keeps ..)
  · refine .next ?_
    split
    · exact (countBad_same s).keeps
    · exact .refl s

theorem execAttemptSuccess_allows (s : State) : s.Allows (execAttemptSuccess s) := by
  unfold execAttemptSuccess
  dsimp only
  split
  · exact .idle s
  · have hsent : s.SameStation (endBusFault (setBus s.bus.dropInFlight s)) := by
      constructor <;> simp
    have htaken := fun k f => hsent.keeps.trans (dispatch_keeps k f _)
    split
    · exact .next ((htaken _ _).trans (restartReset_keeps _))
    · exact .next (htaken _ _)

theorem execRestartTimerExpiry_allows (s : State) : s.Allows (execRestartTimerExpiry s) := by
  unfold execRestartTimerExpiry
  split
  · exact .next (restartReset_keeps s)
  · exact .idle s

/-! ### Reads and programs (R141, R144, R152 to R154) -/

theorem select_same (s : State) : s.SameStation (select s) := by
  constructor <;> simp

theorem endRead_stage (holdoff : Nat) (a : Archive) :
    (endRead holdoff a).mount = a.mount ∧ (endRead holdoff a).resume = a.resume := by
  unfold endRead; repeat' split
  all_goals exact ⟨rfl, rfl⟩

theorem jobReadDone_stage (cal : Option IStamp) (bytes : List Byte) (a : Archive) :
    (jobReadDone cal bytes a).mount = a.mount ∧ (jobReadDone cal bytes a).resume = a.resume := by
  unfold jobReadDone
  repeat' split
  · exact ⟨rfl, rfl⟩
  · exact ⟨rfl, rfl⟩
  · obtain ⟨-, -, -, -, hmount, -, hresume⟩ := refuseJob_keeps cal ‹_› _ ‹_› a
    exact ⟨hmount, hresume⟩
  · exact ⟨rfl, rfl⟩

theorem readDone_keeps (req : ReadReq) (s : State) : s.Keeps (readDone req s) := by
  unfold readDone
  dsimp only
  split
  · refine State.SameStation.keeps ?_; constructor <;> simp
  · exact .refl s
  · exact mountReadDone_keeps req s
  · exact resumeReadDone_keeps _ s
  · refine State.SameStation.keeps ?_; constructor <;> simp [jobReadDone_stage]

theorem execFlashReadDone_allows (s : State) : s.Allows (execFlashReadDone s) := by
  unfold execFlashReadDone
  repeat' split
  · exact .idle s
  · have hend : s.SameStation { s with arch := endRead s.cfg.station.holdoff s.arch } := by
      constructor <;> simp [endRead_stage]
    exact .next (hend.keeps.trans ((readDone_keeps ..).trans (select_same _).keeps))
  · exact .fault ..

theorem programmed_keeps (purpose : ProgramFor) (s : State) : s.Keeps (programmed purpose s) := by
  unfold programmed
  split
  · refine State.SameStation.keeps ?_; constructor <;> rfl
  · refine State.SameStation.keeps ?_; constructor <;> simp [makeOpening_stage] <;> rfl
  · refine State.SameStation.keeps ?_; constructor <;> rfl
  · refine State.SameStation.keeps ?_; constructor <;> rfl
  · refine State.SameStation.keeps ?_
    unfold Archive.eraseStep
    split <;> (constructor <;> rfl)
  · exact extraClosed_keeps _ s

theorem programFailed_keeps (purpose : ProgramFor) (s : State) :
    s.Keeps (programFailed purpose s) := by
  unfold programFailed
  split
  · have hfault : s.SameStation (archiveFault s) := by constructor <;> simp
    exact hfault.keeps.trans ((extraFailed_keeps _).trans (select_same _).keeps)
  · exact (select_archiveFault_same s).keeps

theorem execFlashProgramDone_allows (ok : Bool) (s : State) :
    s.Allows (execFlashProgramDone ok s) := by
  unfold execFlashProgramDone
  repeat' split
  · exact .fault ..
  · rename_i p _ _ _
    have hidle : s.SameStation { s with
        flash := flashWriteBytes s.flash p.addr p.data
        arch := { s.arch with activity := .idle } } := by
      constructor <;> rfl
    exact .next (hidle.keeps.trans ((programmed_keeps ..).trans (select_same _).keeps))
  · exact .next (programFailed_keeps ..)
  · exact .idle s

theorem execProgramTimeout_allows (s : State) : s.Allows (execProgramTimeout s) := by
  unfold execProgramTimeout
  repeat' split
  · exact .next (programFailed_keeps ..)
  · exact .fault ..
  · exact .idle s

/-! ## Every command and every step -/

theorem exec_allows (i : Instr) (s : State) : s.Allows (exec i s) := by
  cases i with
  | powerUp => exact .next (holdReset_keeps s)
  | resetPin => exact .next (holdReset_keeps s)
  | resetPeriodEnd => exact execResetPeriodEnd_allows s
  | eepromReadDone ack bytes => exact execEepromReadDone_allows ack bytes s
  | sampleWord w => exact execSampleWord_allows w s
  | sampleFrameAbort => exact .idle s
  | statusInputEdge i level => exact execStatusInputEdge_allows i level s
  | filterTimerExpiry i => exact execFilterTimerExpiry_allows i s
  | minuteBoundary => exact execMinuteBoundary_allows s
  | ownExpiry => exact execOwnExpiry_allows s
  | markPulseEnd => exact .same (by constructor <;> rfl)
  | markFall => exact execMarkFall_allows s
  | markRise => exact execMarkRise_allows s
  | lowCheckExpiry => exact execLowCheckExpiry_allows s
  | holdOffExpiry => exact .same (by constructor <;> rfl)
  | markStuck => exact execMarkStuck_allows s
  | markNormal => exact execMarkNormal_allows s
  | timeFrame f => exact .next (receive_keeps 3 f s)
  | summaryFrame f => exact .next (receive_keeps 2 f s)
  | minuteFrame f => exact .next (receive_keeps 1 f s)
  | minuteDeadlineExpiry place => exact execMinuteDeadlineExpiry_allows place s
  | checkRequest f => exact .next (receive_keeps 10 f s)
  | settleExpiry => exact execSettleExpiry_allows s
  | measureExpiry => exact execMeasureExpiry_allows s
  | purgeTimerExpiry => exact execPurgeTimerExpiry_allows s
  | purgeCeiling => exact execPurgeCeiling_allows s
  | driftReset f => exact .next (receive_keeps 11 f s)
  | release f => exact .next (receive_keeps 12 f s)
  | fetch f => exact .next (receive_keeps 8 f s)
  | status f => exact .next (receive_keeps 13 f s)
  | restart f => exact .next (receive_keeps 15 f s)
  | unknownKind kind f => exact .next (receive_keeps kind f s)
  | badFrame line => exact execBadFrame_allows line s
  | duplicateStation kind f => exact .next (receive_keeps kind f s)
  | frameDisregarded kind f => exact .next (receive_keeps kind f s)
  | mediumIdle => exact execMediumIdle_allows s
  | contentionLost => exact execContentionLost_allows s
  | attemptSuccess => exact execAttemptSuccess_allows s
  | attemptFailure => exact execAttemptFailure_allows s
  | minuteFrameStale => exact execMinuteFrameStale_allows s
  | duplicateTimerExpiry => exact .same (by constructor <;> rfl)
  | restartTimerExpiry => exact execRestartTimerExpiry_allows s
  | flashReadDone => exact execFlashReadDone_allows s
  | flashProgramDone ok => exact execFlashProgramDone_allows ok s
  | programTimeout => exact execProgramTimeout_allows s
  | flashEraseDone ok => exact execFlashEraseDone_allows ok s
  | eraseTimeout => exact execEraseTimeout_allows s
  | eraseMinRun => exact execEraseMinRun_allows s
  | eraseHoldoffExpiry => exact execEraseHoldoffExpiry_allows s
  | resumeQueueRoom => exact .next (pump_keeps s)
  | fetchNextRead => exact execFetchNextRead_allows s
  | fetchAbandon => exact execFetchAbandon_allows s
  | mediumBusy => exact .same (by constructor <;> rfl)

/-- With nothing due the clock stands below the interval's end (R32). -/
theorem clock_lt_of_due_nil {s : State} {c : Nat} (hd : due s = []) (hc : s.mark.clock = some c) :
    c < 1800000 := by
  by_contra hge
  have hmem : Instr.ownExpiry ∈ due s := by
    have hval : intervalLength ≤ s.clockValue := by
      simp only [State.clockValue, hc, intervalLength, Option.getD_some]; omega
    simp [due, dueMark, dueWhen, hval]
  rw [hd] at hmem
  cases hmem

/-- The millisecond in which nothing is due takes the clock to the interval's end at most. -/
theorem tick_keeps {s : State} (hd : due s = []) : s.Keeps (tick s) := by
  refine ⟨fun ⟨h1, h2, h3, h4⟩ => ?_⟩
  refine ⟨⟨h1, h2, h3, h4⟩,
    fun hc => ⟨fun c hclock => ?_, hc.limit, hc.strays, hc.locked, fun hp => ?_⟩⟩
  · obtain ⟨d, hrun, hnext⟩ := Option.map_eq_some_iff.mp hclock
    have := clock_lt_of_due_nil hd hrun
    omega
  · obtain ⟨hstop, hsync, hstrays⟩ := hc.loading hp
    exact ⟨by rw [tick_mark, MarkUnit.tick, hstop]; rfl, hsync, hstrays⟩

theorem idle_keeps (s : State) : s.Keeps (idle s) := by
  unfold idle
  split
  · exact tick_keeps ‹_›
  · refine State.SameStation.keeps ?_; constructor <;> rfl

/-- Settles O7: every command and every millisecond keeps the station state in keeping. -/
theorem stationInKeepingKept : Obligations.StationInKeepingKept := by
  intro s t hs hstep
  unfold step at hstep
  split at hstep
  · injection hstep with hstep
    exact hstep ▸ (idle_keeps s).kept hs
  · rename_i c rest _
    have htaken : s.SameStation { s with pending := rest } := by constructor <;> rfl
    exact (htaken.keeps.trans ((exec_allows c _).kept t hstep)).kept hs

end Sys2Proof.Machine
end

section
/-! The reset state, the calendar's advance, the MARK line and its status, the adoption of the calendar
(spec/03). -/

namespace Sys2Proof.Machine

/-! ## The reset state (R50, R131, R156, R178, R181) -/

/-- Settles O8: nothing waits and no block has begun. -/
theorem resetMeetsTheInvariants : Obligations.ResetMeetsTheInvariants := by
  obtain ⟨hin, hclock⟩ := unloaded_ok (s := State.reset) rfl rfl (fun _ => rfl) rfl rfl
  have hopen : State.reset.OneOpen :=
    ⟨fun _ _ _ h => (nomatch h), fun _ _ _ h => (nomatch h), fun _ _ _ h => (nomatch h)⟩
  have hchecks : State.reset.ChecksOk := ⟨Nat.zero_le 4, List.nodup_nil, nofun, fun _ => rfl⟩
  exact ⟨rfl, Nat.zero_le 12, Nat.zero_le 16, Nat.zero_le 2, Nat.zero_le 3, hopen, hchecks, hclock,
    hin, rfl, rfl, rfl, rfl⟩

/-! ## The calendar's advance (R41) -/

theorem IStamp.valid_iff (s : IStamp) : s.valid = true ↔
    2000 ≤ s.year ∧ s.year ≤ 2099 ∧ 1 ≤ s.day ∧ s.day ≤ lastDayOf s.year ∧ s.index ≤ 47 := by
  simp [IStamp.valid, and_assoc]

/-- Within a day the index advances. -/
theorem advance_index {s : IStamp} (h : s.index < 47) :
    s.advance = ⟨s.year, s.day, s.index + 1⟩ := if_pos h

/-- After the last index the day advances. -/
theorem advance_day {s : IStamp} (hi : s.index = 47) (hd : s.day < lastDayOf s.year) :
    s.advance = ⟨s.year, s.day + 1, 0⟩ := by
  rw [IStamp.advance, if_neg (by omega), Day.next, if_pos hd]

/-- After the last day the year advances. -/
theorem advance_year {s : IStamp} (hi : s.index = 47) (hd : s.day = lastDayOf s.year) :
    s.advance = ⟨nextYear s.year, 1, 0⟩ := by
  rw [IStamp.advance, if_neg (by omega), Day.next, if_neg (Nat.not_lt.mpr hd.ge)]

theorem one_le_lastDayOf (year : Nat) : 1 ≤ lastDayOf year := by
  unfold lastDayOf; split <;> decide

/-- The year after a possible year is another possible year. -/
theorem nextYear_range {year : Nat} (h1 : 2000 ≤ year) (h2 : year ≤ 2099) :
    2000 ≤ nextYear year ∧ nextYear year ≤ 2099 := by
  unfold nextYear; split <;> omega

/-- Settles O22, by whether the index, the day or the year advances. -/
theorem calendarAdvancesByOneInterval : Obligations.CalendarAdvancesByOneInterval := by
  intro s hs
  obtain ⟨hy1, hy2, hd1, hd2, hi⟩ := s.valid_iff.mp hs
  have hvalid : s.advance.valid = true ∧ s.advance ≠ s := by
    have hne {t : IStamp} (ht : t.index ≠ s.index) : t ≠ s := fun h => ht (congrArg IStamp.index h)
    rcases Nat.lt_or_eq_of_le hi with hlt | heq
    · rw [advance_index hlt, IStamp.valid_iff]
      exact ⟨⟨hy1, hy2, hd1, hd2, hlt⟩, hne (Nat.succ_ne_self _)⟩
    · have hzero : 0 ≠ s.index := by omega
      rcases Nat.lt_or_eq_of_le hd2 with hlt | hlast
      · rw [advance_day heq hlt, IStamp.valid_iff]
        exact ⟨⟨hy1, hy2, Nat.le_add_left 1 _, hlt, Nat.zero_le 47⟩, hne hzero⟩
      · obtain ⟨hn1, hn2⟩ := nextYear_range hy1 hy2
        rw [advance_year heq hlast, IStamp.valid_iff]
        exact ⟨⟨hn1, hn2, Nat.le_refl 1, one_le_lastDayOf _, Nat.zero_le 47⟩, hne hzero⟩
  refine ⟨hvalid.1, hvalid.2, advance_index, advance_day, fun h47 hlast hlt => ?_, ?_⟩
  · rw [advance_year h47 hlast, nextYear, if_neg (by omega)]
  · rintro rfl; rfl

/-! ## Edges that make no close (R34, R35, R37) -/

/-- An edge on a stopped clock, a STUCK line or during the hold-off is not acted on. -/
theorem exec_lowCheckExpiry_ignored {s : State} {n : Nat} (hl : s.mark.lowCheck = some n)
    (h : s.mark.clock = none ∨ s.mark.stuck = true ∨ s.mark.holdOff.isSome = true) :
    exec .lowCheckExpiry s = .next { s with mark := { s.mark with lowCheck := none } } := by
  show execLowCheckExpiry s = _
  unfold execLowCheckExpiry
  rw [hl]
  dsimp only
  split
  · rename_i c hc
    rw [if_neg]
    rcases h with h | h | h
    · rw [h] at hc; cases hc
    · simp [h]
    · simp [Option.isSome_iff_ne_none.mp h]
  · rfl

/-- While LOCKED, outside ALIGNING, an edge before 1,740,000 ms is a stray. -/
theorem actEdge_stray {s : State} {c : Nat} (ha : s.loader.station ≠ .aligning)
    (hy : s.mark.sync = .locked) (hc : c < 1740000) :
    actEdge c s = { s with mark := s.mark.stray s.cfg.station.strayK } := by
  rw [actEdge, if_neg ha, hy]
  exact if_neg (Nat.not_le.mpr hc)

/-- Settles O23: an ignored edge and a stray write the Mark Unit alone. -/
theorem ignoredEdgesAndStraysMakeNoClose : Obligations.IgnoredEdgesAndStraysMakeNoClose := by
  intro s n hl
  refine ⟨exec_lowCheckExpiry_ignored hl, fun c hc hlt hs hh hy hst => ?_⟩
  have ha : s.loader.station ≠ .aligning := by rcases hst with h | h <;> rw [h] <;> decide
  rw [exec_lowCheckExpiry_acts hl hc hs hh, actEdge_stray (by exact ha) (by exact hy) hlt]
  unfold MarkUnit.stray
  dsimp only
  rw [hy]
  rfl

/-! ## The MARK line (R33 to R35, R39, R40) -/

/-- A fall of a high line, sensed from the end of loading on. -/
theorem exec_markFall {s : State} (hst : s.loader.station ≠ .loading)
    (hl : s.pins.markLow = false) : exec .markFall s =
      .next { s with pins := { s.pins with markLow := true }, mark := s.mark.fall } := by
  show execMarkFall s = _
  unfold execMarkFall
  rw [if_neg (by simp [hl])]
  exact if_pos (bne_iff_ne.mpr hst)

/-- A rise of a low line that the station does not drive. -/
theorem exec_markRise {s : State} (hst : s.loader.station ≠ .loading)
    (hl : s.pins.markLow = true) (hp : s.mark.pulse = none) : exec .markRise s =
      .next { s with pins := { s.pins with markLow := false }, mark := s.mark.rise } := by
  show execMarkRise s = _
  unfold execMarkRise
  rw [if_neg (by simp [hl, State.markDriven, hp])]
  exact if_pos (bne_iff_ne.mpr hst)

/-- Settles O25: each line change is what the Mark Unit senses of it. -/
theorem lineChangesDriveTheLineTimers : Obligations.LineChangesDriveTheLineTimers := by
  intro s hst
  refine ⟨fun hl hs => ?_, fun hl hs => ?_, fun hl hp => ?_, rfl, rfl⟩
  · rw [exec_markFall hst hl, MarkUnit.fall, if_neg (by simp [hs])]
  · rw [exec_markFall hst hl, MarkUnit.fall, if_pos hs]
  · rw [exec_markRise hst hl hp]; rfl

/-! ## The line status and its event (R39, R40, R136, R137) -/

/-- The sequencer starts nothing: an operation is in flight, or the archive waits for mount with no read
and no opening before resumption. -/
def Archive.Waits (a : Archive) : Prop :=
  a.activity ≠ .idle ∨
    (a.condition = .notMounted ∧ a.service = false ∧ a.reads = [] ∧ a.opening = none)

/-- A job submitted while the sequencer starts nothing is only taken or dropped. -/
theorem submitJob_of_waits {s : State} (j : Job) (h : s.arch.Waits) :
    submitJob j s = { s with arch := s.arch.enqueue j } := by
  rcases h with hbusy | ⟨hc, hs, hr, ho⟩
  · exact submitJob_busy j hbusy
  · unfold submitJob select
    dsimp only
    rw [selectWith_waiting _ _ _ _ (by rw [enqueue_eq]; exact hs) (by rw [enqueue_eq]; exact hr)
      (by rw [enqueue_eq]; exact ho) (by rw [enqueue_eq]; simp [Archive.mounted, hc])]

/-- A BLOCKED archive or one in FAULT drops an event and counts it (R136, R137). -/
theorem enqueue_event_dropped {a : Archive} (d : List Byte)
    (hc : a.condition = .blocked ∨ a.condition = .fault) :
    a.enqueue (.event d) = { a with counts := { a.counts with
      dropped := min 65535 (a.counts.dropped + 1)
      yearDropped := min 65535 (a.counts.yearDropped + 1) } } := by
  have hdrop : a.enqueue (.event d) = a.dropJob (.event d) := by
    rcases hc with h | h <;> simp [Archive.enqueue, h]
  rw [hdrop]
  rfl

/-- Both changes of the line status write the Mark Unit and submit their event. -/
theorem exec_lineStatus {s : State} {n : Nat} {stuck : Bool} {i : Instr} {m : MarkUnit}
    (h : (i = .markStuck ∧ stuck = true ∧ s.mark.stuckTimer = some n ∧
        m = { s.mark with stuck := true, stuckTimer := none, recovery := none }) ∨
      (i = .markNormal ∧ stuck = false ∧ s.mark.recovery = some n ∧
        m = { s.mark with stuck := false, recovery := none })) :
    exec i s = .next
      (submitEvent (markEvent stuck s.mark.calendar s.clockValue) { s with mark := m }) := by
  rcases h with ⟨rfl, rfl, ht, rfl⟩ | ⟨rfl, rfl, ht, rfl⟩
  · show execMarkStuck s = _
    rw [execMarkStuck, ht]
  · show execMarkNormal s = _
    rw [execMarkNormal, ht]

/-- Settles O26: the event of a change of the line status is a job like any other. -/
theorem lineStatusChangesWithItsEvent : Obligations.LineStatusChangesWithItsEvent := by
  intro s n stuck i m hwait hi
  obtain ⟨e, he⟩ : ∃ e, e = markEvent stuck s.mark.calendar s.clockValue := ⟨_, rfl⟩
  have hexec := exec_lineStatus hi
  rw [← he, submitEvent, submitJob_of_waits (s := { s with mark := m }) _ hwait] at hexec
  exact ⟨_, e, hexec, rfl, he, fun hc hq => enqueue_room _ _ hq hc,
    fun hc => enqueue_event_dropped e hc⟩

/-! ## The adoption of the calendar (R42 to R45, R49) -/

/-- A TIME frame of its length, broadcast by another station, reaches the Mark Unit (R169). -/
theorem receive_timeFrame {s : State} {j : Joined} {f : RxFrame} (hj : s.bus.joined = some j)
    (h0 : f.source ≠ 0) (hs : f.source.toNat ≠ j.number) (hd : f.dest = 0)
    (hl : f.payload.length = 8) : receive 3 f s = handleTime f s := by
  rw [receive_dispatch hj h0 hs]
  show dispatchBroadcast 3 f s = _
  rw [dispatchBroadcast, if_neg (by simp [fixedLength, hl]), if_pos (.inl hd)]

theorem receive_summaryFrame {s : State} {j : Joined} {f : RxFrame} (hj : s.bus.joined = some j)
    (h0 : f.source ≠ 0) (hs : f.source.toNat ≠ j.number) (hd : f.dest = 0)
    (hl : f.payload.length = 71) : receive 2 f s = handleSummary f s := by
  have hnum : s.number = j.number := by simp [State.number, hj]
  rw [receive_dispatch hj h0 hs]
  show dispatchBroadcast 2 f s = _
  rw [dispatchBroadcast, if_neg (by simp [fixedLength, hl]), if_pos (.inl hd)]
  exact if_neg (hnum ▸ hs)

/-- An UNSYNCED station disregards no TIME or SUMMARY frame (R42). -/
theorem disregardsTime_unsynced {s : State} (hu : s.loader.station = .unsynced) :
    s.disregardsTime = false := by
  rw [State.disregardsTime, hu]

theorem handleTime_adopts {s : State} {f : RxFrame} (hu : s.loader.station = .unsynced)
    (hv : (readIStamp f.payload 0).valid = true) (hms : field f.payload 5 3 ≤ 1799999) :
    handleTime f s = adopt (readIStamp f.payload 0) (field f.payload 5 3) s := by
  unfold handleTime
  dsimp only
  rw [disregardsTime_unsynced hu, if_neg (by simp), if_neg (by simp [hv, hms]), if_pos hu]

theorem handleSummary_adopts {s : State} {f : RxFrame} (hu : s.loader.station = .unsynced)
    (hv : (readIStamp f.payload 0).valid = true) :
    handleSummary f s = adopt (readIStamp f.payload 0).advance 0 s := by
  unfold handleSummary
  dsimp only
  rw [disregardsTime_unsynced hu, if_neg (by simp), if_neg (by simp [hv]), if_pos hu]

/-- Settles O28: both frames adopt, and resumption leaves the Mark Unit as adopted or halts it. -/
theorem framesAdoptTheCalendar : Obligations.FramesAdoptTheCalendar := by
  intro s j f stamp now ms i hj hu h0 hs hd hstamp hv hi
  have hexec : exec i s = .next (adopt now ms s) := by
    subst hstamp
    rcases hi with ⟨rfl, hl, rfl, rfl, hms⟩ | ⟨rfl, hl, rfl, rfl⟩
    · show Host.Outcome.next (receive 3 f s) = _
      rw [receive_timeFrame hj h0 hs hd hl, handleTime_adopts hu hv hms]
    · show Host.Outcome.next (receive 2 f s) = _
      rw [receive_summaryFrame hj h0 hs hd hl, handleSummary_adopts hu hv]
  obtain ⟨-, -, -, -, hport, hexch, hchk, hbus, hflash⟩ := adopt_frame now ms s
  obtain ⟨-, -, -, -, hservice, hout⟩ := adopt_resumed now ms s
  refine ⟨_, hexec, ?_⟩
  rw [hservice, hport, hexch, hchk, hbus, hflash]
  rcases hout with ⟨hl, hm⟩ | ⟨hl, hm, -⟩ | ⟨hl, hm, -⟩ <;> rw [hl, hm]
  · exact ⟨rfl, .inl rfl, rfl, rfl, rfl, fun _ => ⟨rfl, rfl, rfl⟩, nofun, rfl, rfl, rfl, rfl, rfl⟩
  · exact ⟨rfl, .inr (.inl rfl), rfl, rfl, rfl, fun _ => ⟨rfl, rfl, rfl⟩, nofun,
      rfl, rfl, rfl, rfl, rfl⟩
  · exact ⟨rfl, .inr (.inr rfl), rfl, rfl, rfl, fun h => absurd rfl h, fun _ => ⟨rfl, rfl⟩,
      rfl, rfl, rfl, rfl, rfl⟩

end Sys2Proof.Machine
end

section
/-! The late records and the reads of resumption (spec/08, R138 to R141, R153 to R155). -/

namespace Sys2Proof.Machine

/-! ## The record queue's room (R154) -/

/-- With room, the last late job is submitted and resumption ends. -/
theorem pump_lastJob {s : State} {j : Job} (hr : s.arch.resume = .submit [j] none)
    (hq : s.arch.queue.length < 16) : pump s = finishResume (submitJob j s) := by
  unfold pump pumpWith
  rw [hr]
  simp [drainJobs, hq]

/-- With room, the last late job before a day is submitted and the day settled. -/
theorem pump_dayAfter {s : State} {j : Job} {next : Day}
    (hr : s.arch.resume = .submit [j] (some next)) (hq : s.arch.queue.length < 16) :
    pump s = pumpWith 2 (settleDay next (setResume .off (submitJob j s))) := by
  unfold pump
  conv => lhs; unfold pumpWith
  rw [hr]
  simp [drainJobs, hq]

/-! ## A job on a resting flash line (R136, R138) -/

/-- Nothing is in flight and nothing waits at a READY archive whose record queue is served. -/
structure Archive.Resting (a : Archive) : Prop where
  idle : a.activity = .idle
  reads : a.reads = []
  opening : a.opening = none
  queue : a.queue = []
  erases : a.erases = []
  service : a.service = true
  condition : a.condition = .ready
  found : a.jobFound = false

/-- A job submitted on a resting line whose taking reads its slot is in work, its read in flight. -/
theorem submitJob_reads {s : State} {j : Job} {r : ReadReq} (h : s.arch.Resting)
    (ht : takeJob s.mark.calendar j { s.arch with queue := [j] } =
      { s.arch with queue := [j], activity := .reading r }) :
    submitJob j s = { s with arch := { s.arch with queue := [j], activity := .reading r } } := by
  have henq : s.arch.enqueue j = { s.arch with queue := [j] } := by
    rw [enqueue_room j _ (by rw [h.queue]; decide) (.inr h.condition), h.queue]
    rfl
  have harch : (submitJob j s).arch = { s.arch with queue := [j], activity := .reading r } := by
    rw [submitJob_arch, henq, selectWith_job _ _ 63 { s.arch with queue := [j] } j [] h.idle h.reads
      h.opening rfl h.service, ht]
    exact selectWith_busy _ _ _ _ nofun
  rw [← harch]
  rfl

/-- The next event slot is read for an event (R140). -/
theorem takeJob_event {a : Archive} {i : Area} {e : AreaEntry} (cal : Option IStamp)
    (data : List Byte) (ho : a.openArea = some (i, e)) (hn : a.nextEvent < 2048)
    (hf : a.jobFound = false) :
    takeJob cal (.event data) a =
      { a with activity := .reading ⟨.job, slotAddr i .event a.nextEvent, 32⟩ } := by
  show takeEvent data a = _
  rw [takeEvent, ho]
  dsimp only
  rw [if_neg (by omega), hf]
  rfl

/-- The slot of a day of the OPEN year is read for its job (R139). -/
theorem takeJob_day {a : Archive} {i : Area} {e : AreaEntry} (cal : Option IStamp) (d : Day)
    (data : List Byte) (ho : a.openArea = some (i, e)) (hy : e.year = some d.year)
    (hf : a.jobFound = false) :
    takeJob cal (.day d data) a =
      { a with activity := .reading ⟨.job, slotAddr i .day (d.day - 1), 320⟩ } := by
  show takeRecord cal d.year .day (d.day - 1) data _ a = _
  rw [takeRecord, ho]
  dsimp only
  rw [if_neg (by simp [hy]), hf]
  rfl

/-- A read of resumption on a resting line is in flight at once. -/
theorem nextRead_resting {s : State} (i : Area) (slot : Nat) (r : Resume) (h : s.arch.Resting) :
    resumeRead i slot (setResume r s) =
      { s with arch := { s.arch with
          resume := r, activity := .reading ⟨.resume, slotAddr i .interval slot, 96⟩ } } := by
  rw [resumeRead, requestRead_idle _ (by exact h.idle) (by exact h.reads)]
  rfl

/-- A read of resumption waits while another read is in flight. -/
theorem nextRead_waits {s : State} {q : ReadReq} (i : Area) (slot : Nat) (r : Resume)
    (ha : s.arch.activity = .reading q) :
    resumeRead i slot (setResume r s) =
      { s with arch := { s.arch with
          resume := r
          reads := s.arch.reads ++ [⟨.resume, slotAddr i .interval slot, 96⟩] } } := by
  unfold resumeRead requestRead
  dsimp only
  rw [setResume_arch]
  dsimp only
  rw [ha]
  dsimp only
  rw [select_busy (by simp)]
  rfl

/-! ## The reads of resumption (R153, R154) -/

/-- The state once the read in flight has left the flash line (R138). -/
def State.lineFreed (s : State) : State := { s with arch := { s.arch with activity := .idle } }

/-- The completion of a read of resumption in the device (R141). -/
theorem exec_flashReadDone_resume {s : State} {req : ReadReq}
    (ha : s.arch.activity = .reading req) (hw : req.who = .resume)
    (hf : req.addr + req.len ≤ flashSize) :
    exec .flashReadDone s = .next
      (select (resumeReadDone (flashReadBytes s.flash req.addr req.len) s.lineFreed)) := by
  show execFlashReadDone s = _
  unfold execFlashReadDone endRead readDone inFlash
  rw [ha]
  dsimp only [Activity.read]
  rw [hw, if_pos (decide_eq_true hf)]
  rfl

section reads

variable {s : State} {i : Area} {e : AreaEntry} {year : Nat} {now : IStamp} {bytes : List Byte}

/-- The downward search meets a committed interval at or after the current one (R153). -/
theorem resumeReadDone_behind {slot : Nat} (hr : s.arch.resume = .latest slot)
    (ho : s.arch.openArea = some (i, e)) (hy : e.year = some year)
    (hc : s.mark.calendar = some now) (hcom : slotState bytes = .committed)
    (hb : (slotStamp year slot).before now = false) :
    resumeReadDone bytes s = haltBehind (some year) (istampBe (some (slotStamp year slot))) s := by
  unfold resumeReadDone
  rw [ho, hc]
  dsimp only
  rw [hr]
  dsimp only
  rw [hy, if_pos hcom]
  exact if_pos (by simp [IStamp.atOrBefore, hb])

/-- The downward search passes any other slot above the last day record's day (R153). -/
theorem resumeReadDone_down {slot : Nat} (hr : s.arch.resume = .latest slot)
    (ho : s.arch.openArea = some (i, e)) (hc : s.mark.calendar = some now)
    (hcom : slotState bytes ≠ .committed) (hl : s.lowSlot < slot) :
    resumeReadDone bytes s = resumeRead i (slot - 1) (setResume (.latest (slot - 1)) s) := by
  unfold resumeReadDone
  rw [ho, hc]
  dsimp only
  rw [hr]
  dsimp only
  rw [if_neg hcom, if_neg (by omega)]

/-- A slot of a day is taken, and the next one read or the day's reading ended (R154). -/
theorem resumeReadDone_day {d : Day} {index : Nat} (hr : s.arch.resume = .day d index)
    (ho : s.arch.openArea = some (i, e)) (hc : s.mark.calendar = some now) :
    resumeReadDone bytes s =
      if index < 47 then
        resumeRead i ((d.day - 1) * 48 + (index + 1))
          (setResume (.day d (index + 1)) (takeStored bytes s))
      else dayRead d (takeStored bytes s) := by
  unfold resumeReadDone
  rw [ho, hc]
  dsimp only
  rw [hr]
  rfl

end reads

/-- A halt on a resting line reads the next event slot for its CALENDAR_BEHIND event. -/
theorem haltBehind_resting {s : State} {i : Area} {e : AreaEntry} (y : Option Nat)
    (found : List Byte) (h : s.arch.Resting) (ho : s.arch.openArea = some (i, e))
    (hn : s.arch.nextEvent < 2048) :
    haltBehind y found s = { s with
      loader := { s.loader with station := .halted, haltReason := some .calendarBehind }
      mark := s.mark.halt
      arch := { s.arch with
        resume := .off
        queue := [.event (calendarBehindEvent s.mark.calendar y found)]
        activity := .reading ⟨.job, slotAddr i .event s.arch.nextEvent, 32⟩ } } := by
  obtain ⟨h1, h2, h3, h4, h5, h6, h7, h8⟩ := h
  exact submitJob_reads ⟨h1, h2, h3, h4, h5, h6, h7, h8⟩ (takeJob_event _ _ (by exact ho) hn h8)

/-- A day of the OPEN year is settled by reading its slots from the first on (R154). -/
theorem settleDay_open {s : State} {i : Area} {e : AreaEntry} {now : IStamp} {d : Day}
    (ho : s.arch.openArea = some (i, e)) (hc : s.mark.calendar = some now)
    (hy : e.year = some d.year) :
    settleDay d s = resumeRead i (dayFirstSlot d.day) (setResume (.day d 0)
      { s with eng := { s.eng with held := some d, day := DayAcc.cleared } }) := by
  unfold settleDay
  rw [ho, hc]
  dsimp only
  rw [if_pos hy]

/-- While a day is read nothing is submitted. -/
theorem pumpWith_day {s : State} {d : Day} {index : Nat} (n : Nat)
    (hr : s.arch.resume = .day d index) : pumpWith n s = s := by
  cases n with
  | zero => rfl
  | succ n => rw [pumpWith, hr]

/-- The current day's last slot ends resumption (R154). -/
theorem dayRead_today {s : State} {d : Day} (hd : s.today = some d) :
    dayRead d s = finishResume s := if_pos hd

/-- An earlier day than the year's last closes late, its job in work on a resting line, and the next day
is settled, its first read waiting (R154). -/
theorem dayRead_late {s : State} {i : Area} {e : AreaEntry} {now : IStamp} {d : Day}
    (h : s.arch.Resting) (ho : s.arch.openArea = some (i, e)) (hc : s.mark.calendar = some now)
    (hy : e.year = some d.year) (hl : d.day < lastDayOf d.year) (hd : now.toDay ≠ d) :
    ∃ data, dayRead d s = { s with
      eng := { (s.eng.closeDay s.cfg true d).1 with
        held := some ⟨d.year, d.day + 1⟩, day := DayAcc.cleared }
      arch := { s.arch with
        queue := [.day d data]
        activity := .reading ⟨.job, slotAddr i .day (d.day - 1), 320⟩
        reads := [⟨.resume, slotAddr i .interval (dayFirstSlot (d.day + 1)), 96⟩]
        resume := .day ⟨d.year, d.day + 1⟩ 0 } } := by
  have hnext : d.next = ⟨d.year, d.day + 1⟩ := if_pos hl
  have htoday : s.today ≠ some d := by
    rw [State.today, hc]
    exact fun heq => hd (Option.some.inj heq)
  obtain ⟨data, hdata⟩ : ∃ data, (s.eng.closeDay s.cfg true d).2 = .day d data := ⟨_, rfl⟩
  have hsubmit := submitJob_reads (j := .day d data) (s := setResume
      (.submit [.day d data] (some ⟨d.year, d.day + 1⟩))
      { s with eng := (s.eng.closeDay s.cfg true d).1 })
    ⟨h.idle, h.reads, h.opening, h.queue, h.erases, h.service, h.condition, h.found⟩
    (takeJob_day _ d data (by exact ho) hy h.found)
  refine ⟨data, ?_⟩
  rw [dayRead, if_neg htoday]
  dsimp only
  rw [hdata, hnext, pump_dayAfter (j := .day d data) (next := ⟨d.year, d.day + 1⟩) rfl
    (by rw [setResume_arch]; simp [h.queue]), hsubmit,
    settleDay_open (d := ⟨d.year, d.day + 1⟩) (by exact ho) (by exact hc) hy,
    nextRead_waits _ _ _ rfl, pumpWith_day 2 rfl]
  simp only [setResume, h.reads, List.nil_append]

/-- The engine after a slot of a day: a committed one is taken, any other passed over (R99, R154). -/
def State.storedTaken (bytes : List Byte) (s : State) : Engine :=
  if slotState bytes = .committed then s.eng.takeInterval s.cfg (readInterval bytes) else s.eng

theorem takeStored_eq (bytes : List Byte) (s : State) :
    takeStored bytes s = { s with eng := s.storedTaken bytes } := by
  unfold takeStored State.storedTaken
  split <;> rfl

/-- A stored interval leaves the DAY_EXCEEDANCE cause. -/
theorem storedTaken_dayExceedance (bytes : List Byte) (s : State) :
    (s.storedTaken bytes).dayExceedance = s.eng.dayExceedance := by
  unfold State.storedTaken
  split <;> rfl

/-! ## What a read of resumption leaves on a resting line -/

/-- A read of resumption writes the loader, the Mark Unit, the engine and the archive alone. -/
theorem select_resumeReadDone_eq (bytes : List Byte) (s t : State)
    (ht : t = select (resumeReadDone bytes s.lineFreed)) :
    t = { s with loader := t.loader, mark := t.mark, eng := t.eng, arch := t.arch } := by
  subst ht
  apply State.ext_fields <;> simp [State.lineFreed]

section resting

variable {s t : State} {i : Area} {e : AreaEntry} {year : Nat} {now : IStamp} {bytes : List Byte}

theorem latestRead_halts {slot : Nat} (ht : t = select (resumeReadDone bytes s))
    (h : s.arch.Resting) (ho : s.arch.openArea = some (i, e)) (hy : e.year = some year)
    (hc : s.mark.calendar = some now) (hn : s.arch.nextEvent < 2048)
    (hr : s.arch.resume = .latest slot) (hcom : slotState bytes = .committed)
    (hb : (slotStamp year slot).before now = false) :
    t.loader = { s.loader with station := .halted, haltReason := some .calendarBehind } ∧
      t.mark = s.mark.halt ∧ t.arch.resume = .off ∧ t.eng = s.eng ∧
      t.arch.queue = [.event (calendarBehindEvent (some now) (some year)
        (istampBe (some (slotStamp year slot))))] := by
  rw [resumeReadDone_behind hr ho hy hc hcom hb, haltBehind_resting _ _ h ho hn, hc,
    select_busy (by simp)] at ht
  subst ht
  exact ⟨rfl, rfl, rfl, rfl, rfl⟩

theorem latestRead_goesDown {slot : Nat} (ht : t = select (resumeReadDone bytes s))
    (h : s.arch.Resting) (ho : s.arch.openArea = some (i, e)) (hc : s.mark.calendar = some now)
    (hr : s.arch.resume = .latest slot) (hcom : slotState bytes ≠ .committed)
    (hl : s.lowSlot < slot) :
    t.loader = s.loader ∧ t.mark = s.mark ∧ t.eng = s.eng ∧
      t.arch.resume = .latest (slot - 1) ∧
      t.arch.activity = .reading ⟨.resume, slotAddr i .interval (slot - 1), 96⟩ := by
  rw [resumeReadDone_down hr ho hc hcom hl, nextRead_resting _ _ _ h, select_busy (by simp)] at ht
  subst ht
  exact ⟨rfl, rfl, rfl, rfl, rfl⟩

theorem dayRead_leaves_mark {d : Day} {index : Nat} (ht : t = select (resumeReadDone bytes s))
    (ho : s.arch.openArea = some (i, e)) (hc : s.mark.calendar = some now)
    (hr : s.arch.resume = .day d index) : t.mark = s.mark := by
  rw [resumeReadDone_day hr ho hc] at ht
  subst ht
  split <;> simp

theorem dayRead_goesOn {d : Day} {index : Nat} (ht : t = select (resumeReadDone bytes s))
    (h : s.arch.Resting) (ho : s.arch.openArea = some (i, e)) (hc : s.mark.calendar = some now)
    (hr : s.arch.resume = .day d index) (hlt : index < 47) :
    t.loader = s.loader ∧ t.eng = s.storedTaken bytes ∧ t.arch.resume = .day d (index + 1) ∧
      t.arch.activity =
        .reading ⟨.resume, slotAddr i .interval ((d.day - 1) * 48 + (index + 1)), 96⟩ := by
  rw [resumeReadDone_day hr ho hc, if_pos hlt, takeStored_eq, nextRead_resting _ _ _ (by exact h),
    select_busy (by simp)] at ht
  subst ht
  exact ⟨rfl, rfl, rfl, rfl⟩

theorem dayRead_ends {d : Day} (ht : t = select (resumeReadDone bytes s))
    (ho : s.arch.openArea = some (i, e)) (hc : s.mark.calendar = some now)
    (hr : s.arch.resume = .day d 47) (hd : now.toDay = d) :
    t.loader = { s.loader with station := .aligning } ∧
      t.eng = { s.storedTaken bytes with held := some d } ∧ t.arch.resume = .off := by
  have htoday : s.today = some d := by rw [State.today, hc, ← hd]; rfl
  rw [resumeReadDone_day hr ho hc, if_neg (by decide), takeStored_eq,
    dayRead_today (by exact htoday)] at ht
  subst ht
  exact ⟨rfl, congrArg (fun h => { s.storedTaken bytes with held := h }) htoday,
    by simp [finishResume]⟩

theorem dayRead_closesLate {d : Day} (ht : t = select (resumeReadDone bytes s))
    (h : s.arch.Resting) (ho : s.arch.openArea = some (i, e)) (hc : s.mark.calendar = some now)
    (hy : e.year = some d.year) (hr : s.arch.resume = .day d 47) (hd : now.toDay ≠ d)
    (hl : d.day < lastDayOf d.year) :
    t.loader = s.loader ∧ t.eng.held = some ⟨d.year, d.day + 1⟩ ∧ t.eng.day = DayAcc.cleared ∧
      t.eng.dayExceedance = s.eng.dayExceedance ∧ t.arch.resume = .day ⟨d.year, d.day + 1⟩ 0 ∧
      ∃ data, t.arch.queue = [.day d data] := by
  obtain ⟨data, hlate⟩ := dayRead_late (s := { s with eng := s.storedTaken bytes }) h ho hc hy hl hd
  rw [resumeReadDone_day hr ho hc, if_neg (by decide), takeStored_eq, hlate,
    select_busy (by simp)] at ht
  subst ht
  exact ⟨rfl, rfl, rfl, storedTaken_dayExceedance bytes s, rfl, data, rfl⟩

end resting

/-- Settles O50: the last late job and each read of resumption, by where resumption stands. -/
theorem queueRoomTakesTheLateRecord : Obligations.QueueRoomTakesTheLateRecord := by
  constructor
  · intro s j r hr hq ha hc
    have hbusy : s.arch.activity ≠ .idle := by rw [ha]; nofun
    have hpump := pump_lastJob hr hq
    rw [submitJob_waits hc hbusy hq, finishResume, select_busy (by exact hbusy)] at hpump
    exact ⟨_, congrArg Host.Outcome.next hpump, rfl, rfl, rfl, rfl⟩
  · intro s req i e year now bytes ha hw hf ho hy hc hq hrd hop her hsv hcd hjf hn hb
    have hexec := exec_flashReadDone_resume ha hw hf
    rw [← hb] at hexec
    have hrest : s.lineFreed.arch.Resting :=
      ⟨rfl, hrd, hop, hq, her, hsv, hcd, hjf⟩
    refine ⟨_, hexec, select_resumeReadDone_eq bytes s _ rfl, fun slot stamp hr hst => ⟨?_, ?_⟩,
      fun day index taken hr htk => ⟨?_, ?_, ?_, ?_⟩⟩
    · subst hst
      exact latestRead_halts (s := s.lineFreed) rfl hrest ho hy hc hn hr
    · exact latestRead_goesDown (s := s.lineFreed) rfl hrest ho hc hr
    · exact dayRead_leaves_mark (s := s.lineFreed) rfl ho hc hr
    · subst htk
      exact dayRead_goesOn (s := s.lineFreed) rfl hrest ho hc hr
    · intro h47 hd
      subst htk h47
      exact dayRead_ends (s := s.lineFreed) rfl ho hc hr hd
    · intro h47 hd hyear hl
      subst h47 hyear
      exact dayRead_closesLate (s := s.lineFreed) rfl hrest ho hc hy hr hd hl

end Sys2Proof.Machine
end

section
/-! The bounds of the pending minute list (spec/04, R58, R61) and of the check queue (spec/07, R113, R114,
R126): what it means to keep them, and that the shared operations do. -/

namespace Sys2Proof.Machine

/-! ## Keeping the bounds -/

/-- What happens from `s` to `t` keeps the bound of the pending minute list and the form of the check
queue. -/
structure State.KeepsBounds (s t : State) : Prop where
  minutes : s.minutesOk → t.minutesOk
  checks : s.ChecksOk → t.ChecksOk

namespace State.KeepsBounds

theorem refl (s : State) : s.KeepsBounds s := ⟨id, id⟩

theorem trans {s t u : State} (h : s.KeepsBounds t) (k : t.KeepsBounds u) : s.KeepsBounds u :=
  ⟨k.minutes ∘ h.minutes, k.checks ∘ h.checks⟩

end State.KeepsBounds

/-- Nothing joins the pending minute list, and the check queue and the pair in progress stay. -/
structure State.NoneJoins (s t : State) : Prop where
  minutes : t.exch.minutes.length ≤ s.exch.minutes.length
  queue : t.chk.queue = s.chk.queue
  pair : t.chk.current.map (·.pair) = s.chk.current.map (·.pair)

/-- The form of the check queue is a matter of the queue and the pair in progress alone. -/
theorem State.ChecksOk.of_eq {s t : State} (hq : t.chk.queue = s.chk.queue)
    (hp : t.chk.current.map (·.pair) = s.chk.current.map (·.pair)) (h : s.ChecksOk) :
    t.ChecksOk := by
  obtain ⟨hbound, hdistinct, hapart, hidle⟩ := h
  refine ⟨by rw [hq]; exact hbound, by rw [hq]; exact hdistinct, fun c hc => ?_, fun hn => ?_⟩
  · rw [hc] at hp
    obtain ⟨d, hd, hpair⟩ := Option.map_eq_some_iff.mp hp.symm
    have hsame : d.pair = c.pair := hpair
    rw [hq, ← hsame]
    exact hapart d hd
  · rw [hn] at hp
    rw [hq]
    exact hidle (Option.map_eq_none_iff.mp hp.symm)

theorem State.ChecksOk.of_chk {s t : State} (hc : t.chk = s.chk) : s.ChecksOk → t.ChecksOk :=
  .of_eq (by rw [hc]) (by rw [hc])

theorem State.NoneJoins.keeps {s t : State} (h : s.NoneJoins t) : s.KeepsBounds t :=
  ⟨fun hs => Nat.le_trans h.minutes hs, .of_eq h.queue h.pair⟩

/-- Whatever next state an outcome gives, the bounds are kept. -/
structure State.Bounds (s : State) (o : Host.Outcome State Fault Refusal) : Prop where
  kept : ∀ t, o = .next t → s.KeepsBounds t

namespace State.Bounds

theorem next {s t : State} (h : s.KeepsBounds t) : s.Bounds (.next t) := by
  refine ⟨fun u e => ?_⟩
  injection e with e
  exact e ▸ h

theorem same {s t : State} (h : s.NoneJoins t) : s.Bounds (.next t) := next h.keeps

theorem idle (s : State) : s.Bounds (.next s) := next (.refl s)

theorem fault (s : State) (f : Fault) : s.Bounds (.fault f) :=
  ⟨fun _ e => by injection e⟩

end State.Bounds

/-- With no minute pending and the sequencer as after reset the bounds hold (R180). -/
theorem keepsBounds_of_reset {s t : State} (he : t.exch = Exchange.reset)
    (hc : t.chk = CheckUnit.reset) : s.KeepsBounds t :=
  ⟨fun _ => by rw [State.minutesOk, he]; decide, fun _ =>
    { bound := by rw [hc]; decide
      distinct := by rw [hc]; exact .nil
      apart := by rw [hc]; nofun
      idle := fun _ => by rw [hc]; rfl }⟩

/-! ## The pending minute list (R58, R61, R64) -/

theorem settle_minutes (s : State) :
    (settle s).exch.minutes.length ≤ s.exch.minutes.length := settleWith_minutes 3 s

/-- The forced resolution leaves at most one minute of two (R61). -/
theorem forceHead_minutes {s : State} (h : s.minutesOk) :
    (forceHead s).exch.minutes.length ≤ 1 := by
  have hle : s.exch.minutes.length ≤ 2 := h
  unfold forceHead
  split
  · have hsettled := settle_minutes (resolveHead s)
    rw [resolveHead_minutes, List.length_tail] at hsettled
    omega
  · omega

/-- A closed minute that enters the list keeps its bound (R58, R61). -/
theorem enterMinute_minutesOk {s : State} (m : MStamp) (st : PlantState)
    (r : Eight (Option MinuteResult)) (last : Bool) (h : s.minutesOk) :
    (enterMinute m st r last s).minutesOk := by
  refine Nat.le_trans (settle_minutes _) ?_
  have hforced := forceHead_minutes h
  simpa using hforced

theorem closeMinute_minutesOk {s : State} (m : IStamp) (slot : Nat) (full last : Bool)
    (h : s.minutesOk) : (closeMinute m slot full last s).minutesOk :=
  enterMinute_minutesOk _ _ _ _ (by simpa [State.minutesOk] using h)

theorem markLast_length (m : IStamp) (l : List PendingMinute) :
    (markLast m l).2.length = l.length := by
  induction l with
  | nil => rfl
  | cons pm rest ih =>
    unfold markLast
    dsimp only
    repeat' split
    all_goals simp [ih]

/-- The last mark neither adds a minute nor takes one off (R64). -/
theorem endWithoutMinute_minutes (m : IStamp) (s : State) :
    (endWithoutMinute m s).exch.minutes.length = s.exch.minutes.length := by
  unfold endWithoutMinute
  dsimp only
  split
  · exact markLast_length m _
  · simp

theorem closeLastMinute_minutesOk {s : State} (m : IStamp) (clock : Nat) (h : s.minutesOk) :
    (closeLastMinute m clock s).minutesOk := by
  have hdiscarded : (endWithoutMinute m s).minutesOk := by
    rw [State.minutesOk, endWithoutMinute_minutes]; exact h
  unfold closeLastMinute
  repeat' split
  · exact hdiscarded
  · exact closeMinute_minutesOk _ _ _ _ h
  · exact hdiscarded

theorem startInterval_minutes (start : IStamp) (s : State) :
    (startInterval start s).exch.minutes = s.exch.minutes := by
  obtain ⟨-, -, hexch, -⟩ := startInterval_spec start s
  rw [hexch]
  rfl

/-- A boundary enters one closed minute (R8). -/
theorem boundaryMinute_bounds (clock : Nat) (s : State) :
    s.KeepsBounds (boundaryMinute clock s) := by
  refine ⟨fun h => ?_, .of_chk (by simp)⟩
  unfold boundaryMinute
  repeat' split
  · exact closeMinute_minutesOk _ _ _ _ h
  · exact h
  · exact h

/-! ## The check queue (R113, R114, R126) -/

/-- The head of a queue in form starts when nothing is in progress; the queue is then empty or a check in
progress. -/
theorem startNext_checksOk {s : State} (hbound : s.chk.queue.length ≤ 4)
    (hdistinct : s.chk.queue.Nodup) (hapart : ∀ c, s.chk.current = some c → c.pair ∉ s.chk.queue) :
    (startNext s).ChecksOk := by
  cases hc : s.chk.current with
  | some c =>
    rw [startNext_busy hc]
    exact ⟨hbound, hdistinct, hapart, by rw [hc]; nofun⟩
  | none =>
    cases hq : s.chk.queue with
    | nil =>
      rw [startNext_empty hq]
      exact ⟨hbound, hdistinct, hapart, fun _ => hq⟩
    | cons p rest =>
      rw [hq] at hbound hdistinct
      obtain ⟨hp, hrest⟩ := List.nodup_cons.mp hdistinct
      have hstart : (startNext s).chk = { s.chk with
          current := some ⟨p, .settle (1000 * (s.cfg.path p.path).settle)⟩, queue := rest } := by
        rw [startNext, hc, hq]
        dsimp only
        rw [startCheck_eq]
        rfl
      rw [List.length_cons] at hbound
      constructor
      · rw [hstart]; exact Nat.le_of_succ_le hbound
      · rw [hstart]; exact hrest
      · rw [hstart]; rintro c ⟨⟩; exact hp
      · rw [hstart]; nofun

/-- The tests of R114 that an accepted offer has passed. -/
theorem offerOutcome_eq_accepted {path valve : Nat} {s : State} {p : Path}
    (hp : pathOf path = some p) (h : offerOutcome path valve s = .accepted) :
    s.pairKnown ⟨p, valve⟩ = false ∧ s.chk.queue.length < 4 := by
  unfold offerOutcome at h
  rw [hp] at h
  dsimp only at h
  repeat' split at h
  · cases h
  · cases h
  · cases h
  · cases h
  · exact ⟨by simpa using ‹¬s.pairKnown _ = true›, by omega⟩

/-- A pair that is not known waits nowhere and is not in progress. -/
theorem pairKnown_eq_false {s : State} {pair : CheckPair} (h : s.pairKnown pair = false) :
    pair ∉ s.chk.queue ∧ ∀ c, s.chk.current = some c → c.pair ≠ pair := by
  obtain ⟨hcurrent, hqueue⟩ := Bool.or_eq_false_iff.mp h
  refine ⟨by simpa using hqueue, fun c hc => ?_⟩
  rw [hc] at hcurrent
  simpa using hcurrent

/-- An offer keeps the form of the queue: refused it changes nothing, accepted it adds a pair that is new
(R114). -/
theorem offerCheck_checksOk (path valve : Nat) {s : State} (h : s.ChecksOk) :
    (offerCheck path valve s).2.ChecksOk := by
  rcases offerCheck_cases path valve s with ⟨p, hp, ho, he⟩ | he
  · obtain ⟨hnew, hroom⟩ := offerOutcome_eq_accepted hp ho
    obtain ⟨hqueue, hcurrent⟩ := pairKnown_eq_false hnew
    obtain ⟨-, hdistinct, hapart, -⟩ := h
    rw [he]
    refine startNext_checksOk ?_ ?_ fun c hc => ?_
    · simpa using hroom
    · exact List.nodup_append.mpr ⟨hdistinct, List.nodup_singleton _, by
        rintro q hq r hr rfl
        exact hqueue (List.mem_singleton.mp hr ▸ hq)⟩
    · have := hapart c hc
      have := hcurrent c hc
      simp_all
  · rw [he]; exact h

theorem offerScheduled_checksOk (start : IStamp) (p : Path) (e : ScheduleEntry) {s : State}
    (h : s.ChecksOk) : (offerScheduled start p e s).ChecksOk := by
  have hoffered := offerCheck_checksOk p.number e.code h
  unfold offerScheduled
  split
  · split <;> rename_i heq <;> rw [heq] at hoffered
    · exact .of_chk (submitEvent_chk ..) hoffered
    · exact hoffered
  · exact h

theorem foldSchedule_checksOk (start : IStamp) (p : Path) (l : List ScheduleEntry) {s : State}
    (h : s.ChecksOk) : (l.foldl (fun s e => offerScheduled start p e s) s).ChecksOk := by
  induction l generalizing s with
  | nil => exact h
  | cons e l ih => exact ih (offerScheduled_checksOk start p e h)

/-- The schedules of both paths keep the form of the queue (R115). -/
theorem testSchedules_checksOk (start : IStamp) {s : State} (h : s.ChecksOk) :
    (testSchedules start s).ChecksOk :=
  foldSchedule_checksOk _ _ _ (foldSchedule_checksOk _ _ _ h)

/-- The end of a purge keeps the form of the queue (R126). -/
theorem endPurge_checksOk {s : State} (h : s.ChecksOk) : (endPurge s).ChecksOk :=
  startNext_checksOk h.bound h.distinct nofun

theorem endPurge_bounds (s : State) : s.KeepsBounds (endPurge s) :=
  ⟨by simp [State.minutesOk], endPurge_checksOk⟩

theorem setLevel_bounds (i : StatusInput) (level : Bool) (s : State) :
    s.KeepsBounds (setLevel i level s) := by
  refine ⟨by simp [State.minutesOk], fun h => ?_⟩
  have hlevel (x : Filter) : ({ s with filter := x } : State).ChecksOk := .of_chk (s := s) rfl h
  unfold setLevel readyActive
  dsimp only
  repeat' split
  · exact endPurge_checksOk (hlevel _)
  all_goals exact hlevel _

/-- A measured channel's result leaves the check queue (R119 to R123). -/
theorem measureChannel_queue (pair : CheckPair) (c : Chan) (s : State) :
    (measureChannel pair c s).chk.queue = s.chk.queue := by
  unfold measureChannel
  dsimp only
  repeat' split
  all_goals rfl

theorem foldMeasure_queue (pair : CheckPair) (l : List Chan) (s : State) :
    (l.foldl (fun s c => measureChannel pair c s) s).chk.queue = s.chk.queue := by
  induction l generalizing s with
  | nil => rfl
  | cons c l ih => exact (ih _).trans (measureChannel_queue pair c s)

/-! ## Interval closes (R31, R48, R86) -/

/-- The start of an interval keeps both bounds: it offers the scheduled checks. -/
theorem startInterval_bounds (start : IStamp) (s : State) :
    s.KeepsBounds (startInterval start s) := by
  refine ⟨?_, fun h => testSchedules_checksOk start (.of_chk (by simp) h)⟩
  unfold State.minutesOk
  rw [startInterval_minutes]
  exact id

theorem closeInterval_bounds (kind : CloseKind) (o : Int) (n : Nat) (s : State) :
    s.KeepsBounds (closeInterval kind o n s) := by
  unfold closeInterval
  split
  · exact .refl s
  · dsimp only
    split
    · refine State.KeepsBounds.trans ?_ (startInterval_bounds ..)
      exact ⟨fun h => closeLastMinute_minutesOk _ _ (by exact h), .of_chk (by simp)⟩
    · refine State.KeepsBounds.trans ?_ (startInterval_bounds ..)
      apply State.NoneJoins.keeps
      split <;> constructor <;> simp
    · apply State.NoneJoins.keeps
      constructor <;> simp

theorem actEdge_bounds (clock : Nat) (s : State) : s.KeepsBounds (actEdge clock s) := by
  have hmark (m : MarkUnit) : s.KeepsBounds { s with mark := m } :=
    State.NoneJoins.keeps ⟨le_rfl, rfl, rfl⟩
  have haccept (kind : CloseKind) : s.KeepsBounds (acceptEdge kind clock s) :=
    (hmark _).trans (closeInterval_bounds ..)
  unfold actEdge
  repeat' split
  · exact haccept _
  · exact haccept _
  · exact haccept _
  · exact hmark _
  · exact .refl s

/-! ## The receive path (R56, R127, R167 to R170) -/

theorem captureValue_length (img : Image) (place : Nat) (m : MStamp) (cap : Capture)
    (l : List PendingMinute) : (captureValue img place m cap l).length = l.length := by
  unfold captureValue; split <;> simp

theorem takeEntry_minutes (source : Nat) (m : MStamp) (s : State) (e : MinuteEntry) :
    (takeEntry source m s e).exch.minutes.length ≤ s.exch.minutes.length := by
  unfold takeEntry
  split
  · exact Nat.le_trans (settle_minutes _) (Nat.le_of_eq (captureValue_length ..))
  · exact le_rfl

theorem foldEntries_minutes (source : Nat) (m : MStamp) (l : List MinuteEntry) (s : State) :
    (l.foldl (takeEntry source m) s).exch.minutes.length ≤ s.exch.minutes.length := by
  induction l generalizing s with
  | nil => exact le_rfl
  | cons e l ih => exact (ih _).trans (takeEntry_minutes source m s e)

/-- The values of a MINUTE frame only take minutes off the list (R57, R59). -/
theorem takeMinute_minutes (source : Nat) (m : MinuteMsg) (s : State) :
    (takeMinute source m s).exch.minutes.length ≤ s.exch.minutes.length := by
  have hentries := foldEntries_minutes source m.stamp m.entries s
  unfold takeMinute
  dsimp only
  split
  · refine Nat.le_trans (settle_minutes _) ?_
    simpa using hentries
  · exact hentries

theorem handleMinute_joins (f : RxFrame) (s : State) : s.NoneJoins (handleMinute f s) := by
  unfold handleMinute
  repeat' split
  · exact ⟨takeMinute_minutes .., by simp, by simp⟩
  · exact ⟨le_rfl, rfl, rfl⟩
  · exact ⟨le_rfl, rfl, rfl⟩

theorem handleCheck_bounds (f : RxFrame) (s : State) : s.KeepsBounds (handleCheck f s) :=
  ⟨by simp [State.minutesOk], fun h => .of_chk (answer_chk ..) (offerCheck_checksOk _ _ h)⟩

theorem handleDriftReset_joins (f : RxFrame) (s : State) : s.NoneJoins (handleDriftReset f s) := by
  refine ⟨by simp, ?_, ?_⟩ <;> unfold handleDriftReset <;> dsimp only <;> split <;> rfl

theorem serveRequest_bounds (kind : Nat) (f : RxFrame) (s : State) :
    s.KeepsBounds (serveRequest kind f s) := by
  unfold serveRequest
  split
  · exact State.NoneJoins.keeps (by constructor <;> simp)
  · exact handleCheck_bounds f s
  · exact (handleDriftReset_joins f s).keeps
  · exact State.NoneJoins.keeps (by constructor <;> simp)
  · exact State.NoneJoins.keeps ⟨le_rfl, rfl, rfl⟩
  · exact State.NoneJoins.keeps (by constructor <;> simp)
  · exact .refl s

theorem dispatch_bounds (kind : Nat) (f : RxFrame) (s : State) :
    s.KeepsBounds (dispatch kind f s) := by
  have hanswer (r : Reply) : s.KeepsBounds (answer kind f r s) :=
    State.NoneJoins.keeps ⟨le_rfl, rfl, rfl⟩
  unfold dispatch dispatchBroadcast handleRequest
  repeat' split
  · exact State.NoneJoins.keeps ⟨le_rfl, rfl, rfl⟩
  · exact (handleMinute_joins f s).keeps
  · exact .refl s
  · exact State.NoneJoins.keeps (by constructor <;> simp)
  · exact State.NoneJoins.keeps (by constructor <;> simp)
  · exact .refl s
  · exact .refl s
  · exact .refl s
  · exact hanswer _
  · exact hanswer _
  · exact hanswer _
  · exact serveRequest_bounds kind f s
  · exact .refl s

theorem receive_bounds (kind : Byte) (f : RxFrame) (s : State) :
    s.KeepsBounds (receive kind f s) := by
  unfold receive
  repeat' split
  · exact .refl s
  · exact State.NoneJoins.keeps ⟨le_rfl, rfl, rfl⟩
  · exact State.NoneJoins.keeps (by constructor <;> simp)
  · exact dispatch_bounds kind.toNat f s

end Sys2Proof.Machine
end

section
/-! Every command and every step keeps the bounds of the pending minute list and of the check queue. -/

namespace Sys2Proof.Machine

/-! ## Resets and loading (R180, R190, R191) -/

theorem holdReset_bounds (s : State) : s.KeepsBounds (holdReset s) := keepsBounds_of_reset rfl rfl

theorem restartReset_bounds (s : State) : s.KeepsBounds (restartReset s) :=
  keepsBounds_of_reset rfl rfl

theorem refuseImage_joins (r : LoadRefusal) (j : Option Joined) (s : State) :
    s.NoneJoins (refuseImage r j s) := ⟨le_rfl, rfl, rfl⟩

theorem headerRead_joins (head : List Byte) (s : State) : s.NoneJoins (headerRead head s) := by
  unfold headerRead
  split
  · exact refuseImage_joins ..
  · exact ⟨le_rfl, rfl, rfl⟩

theorem imageRead_joins (head image : List Byte) (s : State) :
    s.NoneJoins (imageRead head image s) := by
  unfold imageRead
  split
  · exact refuseImage_joins ..
  · constructor <;> simp [acceptImage]

theorem endEepromRead_joins {s : State} (ack : Bool) (bytes : List Byte) (len : Nat)
    {use : State → State} (hu : s.NoneJoins (use s)) :
    s.NoneJoins (endEepromRead ack bytes len use s) := by
  unfold endEepromRead
  repeat' split
  · exact refuseImage_joins ..
  · exact hu
  · exact ⟨le_rfl, rfl, rfl⟩

theorem execEepromReadDone_bounds (ack : Bool) (bytes : List Byte) (s : State) :
    s.Bounds (execEepromReadDone ack bytes s) := by
  unfold execEepromReadDone
  split
  · exact .same (endEepromRead_joins _ _ _ (headerRead_joins ..))
  · exact .same (endEepromRead_joins _ _ _ (imageRead_joins ..))
  · exact .idle s

theorem execResetPeriodEnd_bounds (s : State) : s.Bounds (execResetPeriodEnd s) := by
  unfold execResetPeriodEnd
  split
  · exact .same ⟨le_rfl, rfl, rfl⟩
  · exact .idle s

/-! ## Samples and status inputs -/

theorem execSampleWord_bounds (w : BitVec 24) (s : State) : s.Bounds (execSampleWord w s) := by
  unfold execSampleWord
  split
  · refine .same ?_
    cases hcheck : s.underCheck (wordChannel w) with
    | false => rw [takeWord_accumulated _ _ hcheck]; exact ⟨le_rfl, rfl, rfl⟩
    | true =>
      rw [takeWord_excluded _ _ hcheck]
      refine ⟨le_rfl, ?_, ?_⟩ <;> dsimp only <;> split <;> rfl
  · exact .idle s

theorem setFilterTimer_bounds (i : StatusInput) (t : Timer) (s : State) :
    s.KeepsBounds (setFilterTimer i t s) := State.NoneJoins.keeps ⟨le_rfl, rfl, rfl⟩

theorem execStatusInputEdge_bounds (i : StatusInput) (level : Bool) (s : State) :
    s.Bounds (execStatusInputEdge i level s) := by
  have hraw (x : Pins) : s.KeepsBounds { s with pins := x } :=
    State.NoneJoins.keeps ⟨le_rfl, rfl, rfl⟩
  unfold execStatusInputEdge filterEdge
  dsimp only
  repeat' split
  · exact .next ((hraw _).trans (setFilterTimer_bounds ..))
  · exact .next ((hraw _).trans ((setFilterTimer_bounds ..).trans (setLevel_bounds ..)))
  · exact .next ((hraw _).trans (setFilterTimer_bounds ..))
  · exact .next (hraw _)

theorem execFilterTimerExpiry_bounds (i : StatusInput) (s : State) :
    s.Bounds (execFilterTimerExpiry i s) := by
  unfold execFilterTimerExpiry
  split
  · exact .next ((setFilterTimer_bounds ..).trans (setLevel_bounds ..))
  · exact .idle s

/-! ## The Mark Unit -/

theorem execMinuteBoundary_bounds (s : State) : s.Bounds (execMinuteBoundary s) := by
  have hclock (m : MarkUnit) : s.KeepsBounds { s with mark := m } :=
    State.NoneJoins.keeps ⟨le_rfl, rfl, rfl⟩
  unfold execMinuteBoundary
  repeat' split
  · exact .next ((hclock _).trans (boundaryMinute_bounds ..))
  · exact .idle s
  · exact .idle s

theorem execOwnExpiry_bounds (s : State) : s.Bounds (execOwnExpiry s) := by
  unfold execOwnExpiry
  split
  · exact .next (closeInterval_bounds ..)
  · exact .idle s

theorem execLowCheckExpiry_bounds (s : State) : s.Bounds (execLowCheckExpiry s) := by
  have hlow : s.KeepsBounds { s with mark := { s.mark with lowCheck := none } } :=
    State.NoneJoins.keeps ⟨le_rfl, rfl, rfl⟩
  unfold execLowCheckExpiry
  dsimp only
  repeat' split
  · exact .next (hlow.trans (actEdge_bounds ..))
  · exact .next hlow
  · exact .next hlow
  · exact .idle s

theorem execMarkFall_bounds (s : State) : s.Bounds (execMarkFall s) := by
  unfold execMarkFall
  dsimp only
  repeat' split
  all_goals exact .same ⟨le_rfl, rfl, rfl⟩

theorem execMarkRise_bounds (s : State) : s.Bounds (execMarkRise s) := by
  unfold execMarkRise
  dsimp only
  repeat' split
  all_goals exact .same ⟨le_rfl, rfl, rfl⟩

theorem execMarkStuck_bounds (s : State) : s.Bounds (execMarkStuck s) := by
  unfold execMarkStuck
  split <;> exact .same ⟨le_rfl, rfl, rfl⟩

theorem execMarkNormal_bounds (s : State) : s.Bounds (execMarkNormal s) := by
  unfold execMarkNormal
  split <;> exact .same ⟨le_rfl, rfl, rfl⟩

/-! ## The pending minute's deadline and the timers of a check (R58, R59, R117, R119, R125) -/

theorem execMinuteDeadlineExpiry_bounds (place : Nat) (s : State) :
    s.Bounds (execMinuteDeadlineExpiry place s) := by
  unfold execMinuteDeadlineExpiry
  repeat' split
  · exact .same ⟨(settle_minutes _).trans (by simp), by simp, by simp⟩
  · exact .idle s
  · exact .idle s

theorem execSettleExpiry_bounds (s : State) : s.Bounds (execSettleExpiry s) := by
  unfold execSettleExpiry
  split
  · rename_i hc
    exact .same ⟨le_rfl, rfl, by rw [hc]; rfl⟩
  · exact .idle s

theorem execMeasureExpiry_bounds (s : State) : s.Bounds (execMeasureExpiry s) := by
  unfold execMeasureExpiry
  split
  · rename_i hc
    exact .same ⟨by simp, foldMeasure_queue .., by rw [hc]; rfl⟩
  · exact .idle s

theorem execPurgeTimerExpiry_bounds (s : State) : s.Bounds (execPurgeTimerExpiry s) := by
  unfold execPurgeTimerExpiry
  repeat' split
  · exact .next (endPurge_bounds s)
  · rename_i hc _
    exact .same ⟨le_rfl, rfl, by rw [hc]; rfl⟩
  · exact .idle s

theorem execPurgeCeiling_bounds (s : State) : s.Bounds (execPurgeCeiling s) := by
  have hevent (d : List Byte) : s.KeepsBounds (submitEvent d s) :=
    State.NoneJoins.keeps ⟨le_rfl, rfl, rfl⟩
  unfold execPurgeCeiling
  split
  · exact .next ((hevent _).trans (endPurge_bounds _))
  · exact .idle s

/-! ## The medium and the attempts -/

theorem execBadFrame_bounds (line : List Byte) (s : State) : s.Bounds (execBadFrame line s) := by
  unfold execBadFrame
  split
  · exact .next (receive_bounds ..)
  · refine .same ?_
    split <;> exact ⟨le_rfl, rfl, rfl⟩

theorem execMediumIdle_bounds (s : State) : s.Bounds (execMediumIdle s) := by
  unfold execMediumIdle
  split <;> exact .same ⟨le_rfl, rfl, rfl⟩

theorem execContentionLost_bounds (s : State) : s.Bounds (execContentionLost s) := by
  unfold execContentionLost
  split <;> exact .same ⟨le_rfl, rfl, rfl⟩

/-- The frame's leaving touches neither list; the station's own receive path keeps their bounds, and so does the
reset of a RESTART (R162, R169, R173). -/
theorem execAttemptSuccess_bounds (s : State) : s.Bounds (execAttemptSuccess s) := by
  unfold execAttemptSuccess
  dsimp only
  split
  · exact .idle s
  · have hsent : s.KeepsBounds (endBusFault (setBus s.bus.dropInFlight s)) :=
      State.NoneJoins.keeps (by constructor <;> simp)
    have htaken := fun k f => hsent.trans (dispatch_bounds k f _)
    split
    · exact .next ((htaken _ _).trans (restartReset_bounds _))
    · exact .next (htaken _ _)

theorem execAttemptFailure_bounds (s : State) : s.Bounds (execAttemptFailure s) := by
  unfold execAttemptFailure
  dsimp only
  repeat' split
  all_goals exact .same ⟨le_rfl, rfl, rfl⟩

theorem execMinuteFrameStale_bounds (s : State) : s.Bounds (execMinuteFrameStale s) := by
  unfold execMinuteFrameStale
  repeat' split
  all_goals exact .same ⟨le_rfl, rfl, rfl⟩

theorem execRestartTimerExpiry_bounds (s : State) : s.Bounds (execRestartTimerExpiry s) := by
  unfold execRestartTimerExpiry
  split
  · exact .next (restartReset_bounds s)
  · exact .idle s

/-! ## The flash line -/

theorem select_archiveFault_joins (s : State) : s.NoneJoins (select (archiveFault s)) := by
  constructor <;> simp

theorem readDone_joins (req : ReadReq) (s : State) : s.NoneJoins (readDone req s) := by
  unfold readDone
  dsimp only
  split <;> constructor <;> simp

theorem execFlashReadDone_bounds (s : State) : s.Bounds (execFlashReadDone s) := by
  unfold execFlashReadDone
  repeat' split
  · exact .idle s
  · rename_i req _ _
    obtain ⟨hminutes, hqueue, hpair⟩ := readDone_joins req
      { s with arch := endRead s.cfg.station.holdoff s.arch }
    exact .same ⟨hminutes, hqueue, hpair⟩
  · exact .fault ..

theorem programFailed_joins (purpose : ProgramFor) (s : State) :
    s.NoneJoins (programFailed purpose s) := by
  constructor <;> simp

theorem execFlashProgramDone_bounds (ok : Bool) (s : State) :
    s.Bounds (execFlashProgramDone ok s) := by
  unfold execFlashProgramDone
  repeat' split
  · exact .fault ..
  · refine .same ?_; constructor <;> simp
  · exact .same (programFailed_joins ..)
  · exact .idle s

theorem execProgramTimeout_bounds (s : State) : s.Bounds (execProgramTimeout s) := by
  unfold execProgramTimeout
  repeat' split
  · exact .same (programFailed_joins ..)
  · exact .fault ..
  · exact .idle s

theorem execFlashEraseDone_bounds (ok : Bool) (s : State) :
    s.Bounds (execFlashEraseDone ok s) := by
  unfold execFlashEraseDone
  repeat' split
  · exact .fault ..
  · refine .same ?_; constructor <;> simp
  · exact .same (select_archiveFault_joins s)
  · exact .idle s

theorem execEraseTimeout_bounds (s : State) : s.Bounds (execEraseTimeout s) := by
  unfold execEraseTimeout
  repeat' split
  · exact .same (select_archiveFault_joins s)
  · exact .fault ..
  · exact .idle s

theorem execEraseMinRun_bounds (s : State) : s.Bounds (execEraseMinRun s) := by
  unfold execEraseMinRun
  split <;> exact .same ⟨le_rfl, rfl, rfl⟩

theorem execEraseHoldoffExpiry_bounds (s : State) : s.Bounds (execEraseHoldoffExpiry s) := by
  unfold execEraseHoldoffExpiry
  split <;> exact .same ⟨le_rfl, rfl, rfl⟩

theorem execFetchAbandon_bounds (s : State) : s.Bounds (execFetchAbandon s) := by
  unfold execFetchAbandon
  split <;> exact .same ⟨le_rfl, rfl, rfl⟩

/-! ## Every command and every step -/

theorem exec_bounds (i : Instr) (s : State) : s.Bounds (exec i s) := by
  cases i with
  | powerUp => exact .next (holdReset_bounds s)
  | resetPin => exact .next (holdReset_bounds s)
  | resetPeriodEnd => exact execResetPeriodEnd_bounds s
  | eepromReadDone ack bytes => exact execEepromReadDone_bounds ack bytes s
  | sampleWord w => exact execSampleWord_bounds w s
  | sampleFrameAbort => exact .idle s
  | statusInputEdge i level => exact execStatusInputEdge_bounds i level s
  | filterTimerExpiry i => exact execFilterTimerExpiry_bounds i s
  | minuteBoundary => exact execMinuteBoundary_bounds s
  | ownExpiry => exact execOwnExpiry_bounds s
  | markPulseEnd => exact .same ⟨le_rfl, rfl, rfl⟩
  | markFall => exact execMarkFall_bounds s
  | markRise => exact execMarkRise_bounds s
  | lowCheckExpiry => exact execLowCheckExpiry_bounds s
  | holdOffExpiry => exact .same ⟨le_rfl, rfl, rfl⟩
  | markStuck => exact execMarkStuck_bounds s
  | markNormal => exact execMarkNormal_bounds s
  | timeFrame f => exact .next (receive_bounds 3 f s)
  | summaryFrame f => exact .next (receive_bounds 2 f s)
  | minuteFrame f => exact .next (receive_bounds 1 f s)
  | minuteDeadlineExpiry place => exact execMinuteDeadlineExpiry_bounds place s
  | checkRequest f => exact .next (receive_bounds 10 f s)
  | settleExpiry => exact execSettleExpiry_bounds s
  | measureExpiry => exact execMeasureExpiry_bounds s
  | purgeTimerExpiry => exact execPurgeTimerExpiry_bounds s
  | purgeCeiling => exact execPurgeCeiling_bounds s
  | driftReset f => exact .next (receive_bounds 11 f s)
  | release f => exact .next (receive_bounds 12 f s)
  | fetch f => exact .next (receive_bounds 8 f s)
  | status f => exact .next (receive_bounds 13 f s)
  | restart f => exact .next (receive_bounds 15 f s)
  | unknownKind kind f => exact .next (receive_bounds kind f s)
  | badFrame line => exact execBadFrame_bounds line s
  | duplicateStation kind f => exact .next (receive_bounds kind f s)
  | frameDisregarded kind f => exact .next (receive_bounds kind f s)
  | mediumIdle => exact execMediumIdle_bounds s
  | contentionLost => exact execContentionLost_bounds s
  | attemptSuccess => exact execAttemptSuccess_bounds s
  | attemptFailure => exact execAttemptFailure_bounds s
  | minuteFrameStale => exact execMinuteFrameStale_bounds s
  | duplicateTimerExpiry => exact .same ⟨le_rfl, rfl, rfl⟩
  | restartTimerExpiry => exact execRestartTimerExpiry_bounds s
  | flashReadDone => exact execFlashReadDone_bounds s
  | flashProgramDone ok => exact execFlashProgramDone_bounds ok s
  | programTimeout => exact execProgramTimeout_bounds s
  | flashEraseDone ok => exact execFlashEraseDone_bounds ok s
  | eraseTimeout => exact execEraseTimeout_bounds s
  | eraseMinRun => exact execEraseMinRun_bounds s
  | eraseHoldoffExpiry => exact execEraseHoldoffExpiry_bounds s
  | resumeQueueRoom => exact .same (by constructor <;> simp)
  | fetchNextRead => exact .same (by constructor <;> simp)
  | fetchAbandon => exact execFetchAbandon_bounds s
  | mediumBusy => exact .same ⟨le_rfl, rfl, rfl⟩

/-- A millisecond runs the timers of the pending minutes and of the check alone. -/
theorem tick_joins (s : State) : s.NoneJoins (tick s) := by
  refine ⟨by simp [tick, Exchange.tick], rfl, ?_⟩
  simp [tick, CheckUnit.tick, Option.map_map, Function.comp_def]

theorem idle_joins (s : State) : s.NoneJoins (idle s) := by
  unfold idle
  split
  · exact tick_joins s
  · exact ⟨le_rfl, rfl, rfl⟩

/-- Settles O6: every command and every millisecond keeps both bounds. -/
theorem pendingMinuteBoundKept : Obligations.PendingMinuteBoundKept := by
  intro s t hstep
  unfold step at hstep
  split at hstep
  · injection hstep with hstep
    obtain ⟨hminutes, hchecks⟩ := (idle_joins s).keeps
    exact hstep ▸ ⟨hminutes, hchecks⟩
  · rename_i c rest _
    have htaken : s.NoneJoins { s with pending := rest } := ⟨le_rfl, rfl, rfl⟩
    obtain ⟨hminutes, hchecks⟩ := htaken.keeps.trans ((exec_bounds c _).kept t hstep)
    exact ⟨hminutes, hchecks⟩

end Sys2Proof.Machine
end

section
/-! The Reference Exchange (spec/04): MINUTE frames, HELD references and the deadline of a pending minute;
and the station's own frame sent (spec/09, R162, R166, R169). -/

namespace Sys2Proof.Machine

/-! ## MINUTE frames (R56, R57, R60) -/

/-- A MINUTE frame of its right length reaches the Reference Exchange when it is addressed to this station
or to all (R169). -/
theorem dispatch_minute {s : State} {f : RxFrame}
    (hl : f.payload.length = 8 + 5 * field f.payload 7 1) :
    dispatch 1 f s = if f.dest = 0 ∨ f.dest.toNat = s.number then handleMinute f s else s := by
  have hfixed : fixedLength 1 f.payload = some f.payload.length := congrArg some hl.symm
  rw [dispatch, if_pos (.inl rfl), dispatchBroadcast, if_neg (not_not.mpr hfixed)]

theorem exec_minuteFrame {s : State} {j : Joined} {f : RxFrame} (hj : s.bus.joined = some j)
    (h0 : f.source ≠ 0) (hs : f.source.toNat ≠ j.number) (hd : f.dest = 0)
    (hl : f.payload.length = 8 + 5 * field f.payload 7 1) :
    exec (.minuteFrame f) s = .next (handleMinute f s) := by
  show Host.Outcome.next (receive 1 f s) = _
  rw [receive_dispatch hj h0 hs]
  exact congrArg Host.Outcome.next ((dispatch_minute hl).trans (if_pos (.inl hd)))

/-- While the station is not RECORDING a MINUTE frame is disregarded (R56). -/
theorem handleMinute_disregarded {s : State} (f : RxFrame) (hr : s.loader.station ≠ .recording) :
    handleMinute f s = s := by
  rw [handleMinute, if_neg (by simpa [State.recording] using hr)]

theorem handleMinute_refused {s : State} {f : RxFrame} (hr : s.loader.station = .recording)
    (hf : readMinute f.payload = none) : handleMinute f s = countBad s := by
  rw [handleMinute, if_pos (by simpa [State.recording] using hr), hf]

theorem handleMinute_taken {s : State} {f : RxFrame} {m : MinuteMsg}
    (hr : s.loader.station = .recording) (hf : readMinute f.payload = some m) :
    handleMinute f s = takeMinute f.source.toNat m s := by
  rw [handleMinute, if_pos (by simpa [State.recording] using hr), hf]

/-- A value of the one pair subscribed to goes to the first entry. -/
theorem takeEntry_only {s : State} {source ch : Nat} (m : MStamp) (status : MinuteStatus)
    (v : Option Int) (hs : s.cfg.subs = [⟨source, ch⟩]) :
    takeEntry source m s ⟨ch, status, v⟩ = takeValue 0 m v status s := by
  simp [takeEntry, hs]

/-- With no minute pending or resolved every stamp is early (R57). -/
theorem arrival_early {ex : Exchange} (m : MStamp) (hm : ex.minutes = []) (hh : ex.history = []) :
    ex.arrival m = .early := by
  simp [Exchange.arrival, hm, hh]

/-- With no minute pending a value only goes into its entry. -/
theorem takeValue_noneWaits {s : State} (place : Nat) (m : MStamp) (v : Option Int)
    (status : MinuteStatus) (hm : s.exch.minutes = []) :
    takeValue place m v status s = { s with exch := { s.exch with
      entries := updateAt (ValueEntry.take (s.exch.arrival m) (s.exch.ageOf m) m v status) place
        s.exch.entries } } := by
  have hcaps : captureValue s.cfg place m ⟨v, status⟩ s.exch.minutes = s.exch.minutes := by
    rw [hm, captureValue]; exact ite_self _
  unfold takeValue
  dsimp only
  rw [hcaps, settle_none (by exact hm)]

/-- An empty entry takes an early VALID value as its latest and its last-valid one (R57, R60). -/
theorem take_reset_valid (m : MStamp) (v : Int) :
    ValueEntry.reset.take .early 0 m (some v) .valid =
      { ValueEntry.reset with latest := some ⟨m, some v, .valid⟩, lastValid := some ⟨m, v⟩ } := rfl

/-- Settles O29: the frame reaches the Reference Exchange, which disregards it, refuses it or takes its
one value. -/
theorem minuteFrameIsTestedWhileRecording : Obligations.MinuteFrameIsTestedWhileRecording := by
  intro s j f hj h0 hs hd hl
  rw [exec_minuteFrame hj h0 hs hd hl]
  refine ⟨fun hr => by rw [handleMinute_disregarded f hr],
    fun hr hf => by rw [handleMinute_refused hr hf]; rfl,
    fun stamp state ch v hr hf hsubs hplant hentries hm hh => ?_⟩
  have hage : s.exch.ageOf stamp = 0 := by rw [Exchange.ageOf, hh]; rfl
  have htake : takeMinute f.source.toNat ⟨stamp, state, [⟨ch, .valid, some v⟩]⟩ s =
      takeValue 0 stamp (some v) .valid s := by
    have hcfg : (takeValue 0 stamp (some v) .valid s).cfg = s.cfg := by simp [State.cfg]
    rw [takeMinute, List.foldl_cons, List.foldl_nil, takeEntry_only _ _ _ hsubs]
    exact if_neg (by rw [hcfg, hplant]; nofun)
  rw [handleMinute_taken hr hf, htake, takeValue_noneWaits _ _ _ _ hm, hentries,
    arrival_early stamp hm hh, hage]
  exact congrArg Host.Outcome.next (by rw [updateAt, take_reset_valid])

/-! ## HELD references (R62) -/

/-- A resolution without a fresh value raises the age and keeps the last-valid value; the reference is
HELD while the age is at most H. -/
theorem resolve_unfresh {e : ValueEntry} {l : LastValid} (stamp : MStamp) (hold : Nat)
    (hl : e.lastValid = some l) :
    (e.resolve stamp none hold).age = satInc 255 e.age ∧
      (e.resolve stamp none hold).lastValid = some l ∧
      (e.resolve stamp none hold).outcome =
        if satInc 255 e.age ≤ hold then .held else .lost := by
  unfold ValueEntry.resolve judgeRef
  rw [hl]
  by_cases h : satInc 255 e.age ≤ hold <;> simp [h]

/-- After `n` resolutions without a fresh value the age is `n`. -/
theorem resolve_iterate {e : ValueEntry} {l : LastValid} (stamp : MStamp) (hold : Nat)
    (hl : e.lastValid = some l) (ha : e.age = 0) (n : Nat) (hn : n ≤ 255) :
    ((ValueEntry.resolve stamp none hold)^[n] e).age = n ∧
      ((ValueEntry.resolve stamp none hold)^[n] e).lastValid = some l := by
  induction n with
  | zero => exact ⟨ha, hl⟩
  | succ n ih =>
    obtain ⟨hage, hlast⟩ := ih (by omega)
    obtain ⟨hage', hlast', -⟩ := resolve_unfresh stamp hold hlast
    rw [Function.iterate_succ_apply']
    refine ⟨?_, hlast'⟩
    rw [hage', hage, satInc, if_pos (by omega)]

/-- Settles O30: the outcome of the last of `n` resolutions compares the age `n` with H. -/
theorem heldForAtMostH : Obligations.HeldForAtMostH := by
  intro e l stamp hold n hl ha _ h1 hn
  obtain ⟨k, rfl⟩ : ∃ k, n = k + 1 := ⟨n - 1, by omega⟩
  obtain ⟨hage, hlast⟩ := resolve_iterate stamp hold hl ha k (by omega)
  obtain ⟨-, hlast', houtcome⟩ := resolve_unfresh stamp hold hlast
  have hsat : satInc 255 k = k + 1 := by rw [satInc, if_pos (by omega)]
  rw [Function.iterate_succ_apply']
  refine ⟨?_, hlast'⟩
  rw [houtcome, hage, hsat]

/-! ## The deadline of a pending minute (R58, R59, R63, R64) -/

/-- The expiry of the only pending minute's deadline resolves the minute with its mark set. -/
theorem exec_minuteDeadlineExpiry_only {s : State} {pm : PendingMinute} {n : Nat}
    (hm : s.exch.minutes = [pm]) (hd : pm.deadline = some n) :
    exec (.minuteDeadlineExpiry 0) s = .next (resolveHead { s with exch := { s.exch with
      minutes := [{ pm with deadline := none, deadlineMark := true }] } }) := by
  show execMinuteDeadlineExpiry 0 s = _
  unfold execMinuteDeadlineExpiry
  rw [hm, List.getElem?_cons_zero]
  dsimp only
  rw [hd]
  exact congrArg Host.Outcome.next (settle_one rfl (.inr rfl))

/-- Settles O31: the deadline is a resolution of the head, its last mark as it was. -/
theorem deadlineResolvesTheHead : Obligations.DeadlineResolvesTheHead := by
  intro s pm n hm hd
  obtain ⟨hminutes, hhistory, hgoes, hends⟩ := resolveHead_spec (s := { s with exch := { s.exch with
    minutes := [{ pm with deadline := none, deadlineMark := true }] } }) rfl
  exact ⟨_, exec_minuteDeadlineExpiry_only hm hd, hminutes, hhistory, hgoes, hends,
    by simp, by simp, by simp, by simp⟩

/-! ## The station's own frame (R162, R166, R169) -/

/-- The bus after a success: the frame has left, the failures and BUS_FAULT are over (R162, R166). -/
theorem endBusFault_sent {s : State} {f : TxFrame} {fs : List TxFrame} (hq : s.bus.queue = f :: fs)
    (hf : f.inFlight = true) :
    (endBusFault (setBus s.bus.dropInFlight s)).bus =
        { s.bus with queue := fs, failures := 0, fault := false } ∧
      (s.bus.fault = false → (endBusFault (setBus s.bus.dropInFlight s)).arch = s.arch) := by
  have hdrop : s.bus.dropInFlight = { s.bus with queue := fs } := by
    simp [Bus.dropInFlight, hq, hf]
  rw [hdrop]
  unfold endBusFault setBus
  dsimp only
  refine ⟨by split <;> rfl, fun hfault => ?_⟩
  rw [if_neg (by simp [hfault])]

/-- A success dispatches the frame that has left to the station itself; only the REPLY of a RESTART has
more to do (R162, R169, R173). -/
theorem exec_attemptSuccess_sent {s : State} {f : TxFrame} {fs : List TxFrame}
    (hq : s.bus.queue = f :: fs) (hf : f.inFlight = true) (hr : f.restartReply = false) :
    exec .attemptSuccess s = .next (dispatch f.kind
      (f.received (endBusFault (setBus s.bus.dropInFlight s)).number)
      (endBusFault (setBus s.bus.dropInFlight s))) := by
  have hflight : s.bus.inFlight = some f := by simp [Bus.inFlight, hq, hf]
  show execAttemptSuccess s = _
  unfold execAttemptSuccess
  rw [hflight]
  dsimp only
  rw [hr]
  rfl

/-- A frame of the station carries the station's own number as its source. -/
theorem received_source {f : TxFrame} {n : Nat} (h : n ≤ 31) : (f.received n).source.toNat = n := by
  show (BitVec.ofNat 5 n).toNat = n
  rw [BitVec.toNat_ofNat]
  omega

/-- A REPLY, a RECORD and a STATUS_REPORT have no effect on a station that takes them (R169). -/
theorem dispatch_answers {kind : Nat} (f : RxFrame) (s : State)
    (hk : kind = 9 ∨ kind = 14 ∨ kind = 16) : dispatch kind f s = s := by
  rw [dispatch, if_neg (by omega), if_pos hk]

/-- The station's own SUMMARY frame has no effect on it (R169). -/
theorem dispatch_ownSummary {f : RxFrame} {s : State} (hl : f.payload.length = 71)
    (hs : f.source.toNat = s.number) : dispatch 2 f s = s := by
  have hfixed : fixedLength 2 f.payload = some f.payload.length := congrArg some hl.symm
  rw [dispatch, if_pos (.inr (.inl rfl)), dispatchBroadcast, if_neg (not_not.mpr hfixed), if_pos hs]
  exact ite_self _

/-- The values of a station that no subscription names are taken by no entry (R56). -/
theorem takeEntry_unsubscribed {s : State} {source : Nat} (m : MStamp) (e : MinuteEntry)
    (h : ∀ p ∈ s.cfg.subs, p.station ≠ source) : takeEntry source m s e = s := by
  have hnone : s.cfg.subs.findIdx? (fun p => p.station == source && p.channel == e.channel) =
      none := by
    rw [List.findIdx?_eq_none_iff]
    intro p hp
    simp [h p hp]
  rw [takeEntry, hnone]

theorem takeMinute_unsubscribed {s : State} {source : Nat} (m : MinuteMsg)
    (h : ∀ p ∈ s.cfg.subs, p.station ≠ source) (hp : s.cfg.plantSource ≠ some source) :
    takeMinute source m s = s := by
  have hfold (l : List MinuteEntry) : l.foldl (takeEntry source m.stamp) s = s := by
    induction l with
    | nil => rfl
    | cons e l ih => rw [List.foldl_cons, takeEntry_unsubscribed _ _ h, ih]
  unfold takeMinute
  rw [hfold]
  exact if_neg hp

/-- A MINUTE frame that no subscription names has no effect (R56). -/
theorem dispatch_ownMinute {f : RxFrame} {s : State}
    (hl : f.payload.length = 8 + 5 * field f.payload 7 1)
    (h : s.loader.station ≠ .recording ∨ ((readMinute f.payload).isSome = true ∧
      (∀ p ∈ s.cfg.subs, p.station ≠ f.source.toNat) ∧
      s.cfg.plantSource ≠ some f.source.toNat)) : dispatch 1 f s = s := by
  have hquiet : handleMinute f s = s := by
    by_cases hr : s.loader.station = .recording
    · obtain ⟨hread, hsubs, hplant⟩ := h.resolve_left (not_not.mpr hr)
      obtain ⟨m, hm⟩ := Option.isSome_iff_exists.mp hread
      rw [handleMinute_taken hr hm, takeMinute_unsubscribed m hsubs hplant]
    · exact handleMinute_disregarded f hr
  rw [dispatch_minute hl, hquiet]
  exact ite_self _

/-- Settles O56: the frame leaves, and the station's own receive path makes nothing of it. -/
theorem successSendsTheFrame : Obligations.SuccessSendsTheFrame := by
  intro s f fs hq hf hr hkind
  obtain ⟨u, hu⟩ : ∃ u, u = endBusFault (setBus s.bus.dropInFlight s) := ⟨_, rfl⟩
  obtain ⟨hbus, harch⟩ := endBusFault_sent hq hf
  have hexec := exec_attemptSuccess_sent hq hf hr
  have hsame : u = { s with bus := u.bus, arch := u.arch } := by
    apply State.ext_fields <;> simp [hu]
  rw [← hu] at hbus harch hexec
  have hnumber : u.number = s.number := by simp only [State.number, hbus]
  have hloader : u.loader = s.loader := by rw [hsame]
  have hcfg : u.cfg = s.cfg := by rw [hsame]; rfl
  have hquiet : dispatch f.kind (f.received u.number) u = u := by
    rw [hnumber]
    rcases hkind with h | h | h | ⟨hn, hk, hl⟩ | ⟨hn, hk, hl, h⟩
    · exact dispatch_answers _ _ (.inl h)
    · exact dispatch_answers _ _ (.inr (.inl h))
    · exact dispatch_answers _ _ (.inr (.inr h))
    · rw [hk]
      exact dispatch_ownSummary hl ((received_source hn).trans hnumber.symm)
    · rw [hk]
      refine dispatch_ownMinute hl ?_
      rw [received_source hn, hloader, hcfg]
      exact h
  rw [hquiet] at hexec
  exact ⟨u, hexec, hsame, hbus, harch⟩

end Sys2Proof.Machine
end

section
/-! The Normalizer (spec/05): the ranges of the correction factors over the clamped references (R73 to R79),
and the chain that applies them (R80, R81). -/

namespace Sys2Proof.Machine

/-! ## Bounds of a rounded division -/

theorem le_roundDiv {a x y : Nat} (h : 0 < y) : a ≤ roundDiv x y ↔ a * (2 * y) ≤ 2 * x + y :=
  Nat.le_div_iff_mul_le (by omega)

theorem roundDiv_le {b x y : Nat} (h : 0 < y) : roundDiv x y ≤ b ↔ 2 * x + y < (b + 1) * (2 * y) := by
  rw [← Nat.lt_succ_iff]
  exact Nat.div_lt_iff_lt_mul (by omega)

theorem roundDiv_mul_self (a : Nat) {y : Nat} (h : 0 < y) : roundDiv (a * y) y = a := by
  refine Nat.le_antisymm ((roundDiv_le h).mpr ?_) ((le_roundDiv h).mpr ?_)
  · linarith
  · linarith

/-! ## The clamped references (R73) -/

theorem clampT_mem (x : Option Int) : -40000 ≤ clampT x ∧ clampT x ≤ 600000 :=
  clampInt_mem _ _ _ (by decide)

theorem clampP_mem (x : Option Int) : 800000 ≤ clampP x ∧ clampP x ≤ 1200000 := by
  have h := clampInt_mem 800000 1200000 (x.getD 800000) (by decide)
  unfold clampP
  omega

theorem clampH_le (x : Option Int) : clampH x ≤ 40000 := by
  have h := clampInt_mem 0 40000 (x.getD 0) (by decide)
  unfold clampH
  omega

theorem clampO2_le (x : Option Int) : clampO2 x ≤ 21000 := by
  have h := clampInt_mem 0 21000 (x.getD 0) (by decide)
  unfold clampO2
  omega

theorem hOutside_iff (x : Option Int) :
    hOutside x = true ↔ ∃ h, x = some h ∧ (h < 0 ∨ 40000 < h) := by
  cases x <;> simp [hOutside]

/-! ## The factors (R74 to R79) -/

theorem factorT_eq {t : Int} (h : -273150 ≤ t) :
    (factorT t : Int) = (2 * (1000000 * (273150 + t)) + 273150) / 546300 := by
  unfold factorT roundDiv
  omega

theorem factorT_mem {t : Int} (h : -40000 ≤ t ∧ t ≤ 600000) :
    853560 ≤ factorT t ∧ factorT t ≤ 3196595 :=
  ⟨(le_roundDiv (by decide)).mpr (by omega), (roundDiv_le (by decide)).mpr (by omega)⟩

theorem factorP_mem {p : Nat} (h : 800000 ≤ p ∧ p ≤ 1200000) :
    844375 ≤ factorP p ∧ factorP p ≤ 1266563 :=
  ⟨(le_roundDiv (by omega)).mpr (by omega), (roundDiv_le (by omega)).mpr (by omega)⟩

theorem factorH_mem {h : Nat} (hh : h ≤ 40000) : 1000000 ≤ factorH h ∧ factorH h ≤ 1666667 :=
  ⟨(le_roundDiv (by omega)).mpr (by omega), (roundDiv_le (by omega)).mpr (by omega)⟩

theorem dryO2_le {o2 h : Nat} (wet : Bool) (ho : o2 ≤ 21000) (hh : h ≤ 40000) :
    dryO2 wet o2 h ≤ 35000 := by
  cases wet with
  | false => exact ho.trans (by decide)
  | true => exact (roundDiv_le (by omega)).mpr (by omega)

theorem factorO2_mem {o2Ref o2d : Nat} (hr : o2Ref ≤ 20000) (hd : o2d ≤ 20000) :
    47619 ≤ factorO2 o2Ref o2d ∧ factorO2 o2Ref o2d ≤ 21000000 :=
  ⟨(le_roundDiv (by omega)).mpr (by omega), (roundDiv_le (by omega)).mpr (by omega)⟩

/-- At the reference oxygen the correction leaves the value as it is (R79). -/
theorem factorO2_self {o2Ref : Nat} (h : o2Ref ≤ 20000) : factorO2 o2Ref o2Ref = 1000000 :=
  roundDiv_mul_self _ (by omega)

/-! ## The chain (R80, R81) -/

@[simp] theorem chainStep_false (factor : Nat) (x : Nat × Bool) : chainStep false factor x = x := rfl

/-- A step that is made rounds half up, limits its result and marks a limited one. -/
theorem chainStep_true (factor c : Nat) (sat : Bool) :
    chainStep true factor (c, sat) = (min 9999999 ((2 * (c * factor) + 1000000) / 2000000),
      sat || decide (9999999 ≤ (2 * (c * factor) + 1000000) / 2000000)) := by
  have hround : roundDiv (c * factor) 1000000 = (2 * (c * factor) + 1000000) / 2000000 := by
    rw [roundDiv]
  rw [chainStep, if_pos rfl]
  dsimp only
  rw [hround]
  generalize (2 * (c * factor) + 1000000) / 2000000 = q
  by_cases hl : 9999999 ≤ q
  · rw [if_pos hl, Nat.min_eq_left hl, decide_eq_true hl, Bool.or_true]
  · rw [if_neg hl, Nat.min_eq_right (Nat.le_of_not_le hl), decide_eq_false hl, Bool.or_false]

/-- A step limits the running value `c'` it comes to, made or passed over, and marks a limited value it
made. -/
theorem chainStep_limits {made : Bool} {factor c c' : Nat} (sat : Bool) (hc : c ≤ 9999999)
    (h : c' = if made then (2 * (c * factor) + 1000000) / 2000000 else c) :
    chainStep made factor (c, sat) =
      (min 9999999 c', sat || (made && decide (9999999 ≤ c'))) := by
  subst h
  cases made with
  | false =>
    rw [if_neg Bool.false_ne_true, Nat.min_eq_right hc, Bool.false_and, Bool.or_false, chainStep_false]
  | true => rw [if_pos rfl, Bool.true_and, chainStep_true]

/-- The whole chain, from the running value each of its four steps comes to. -/
theorem normalize_eq {cfg : ChannelCfg} {cap m c1 c2 c3 c4 : Nat} {r : RefValues} (hm : m ≤ 9999999)
    (h1 : c1 = if cfg.basisT then (2 * (m * factorT (clampT r.t)) + 1000000) / 2000000 else m)
    (h2 : c2 = if cfg.basisP then
        (2 * (min 9999999 c1 * factorP (clampP r.p)) + 1000000) / 2000000 else min 9999999 c1)
    (h3 : c3 = if cfg.basisDry then
        (2 * (min 9999999 c2 * factorH (clampH r.h)) + 1000000) / 2000000 else min 9999999 c2)
    (h4 : c4 = if cfg.basisO2 then
        (2 * (min 9999999 c3 * factorO2 cfg.o2Ref
          (min (dryO2 cfg.o2Wet (clampO2 r.o2) (clampH r.h)) cap)) + 1000000) / 2000000
      else min 9999999 c3) :
    normalize cfg cap m r =
      { value := min 9999999 c4
        sat := (((cfg.basisT && decide (9999999 ≤ c1)) || (cfg.basisP && decide (9999999 ≤ c2))) ||
          (cfg.basisDry && decide (9999999 ≤ c3))) || (cfg.basisO2 && decide (9999999 ≤ c4))
        hClamp := cfg.needsH && hOutside r.h
        o2Cap := cfg.basisO2 &&
          decide (cap < dryO2 cfg.o2Wet (clampO2 r.o2) (clampH r.h)) } := by
  have hlim (c : Nat) : min 9999999 c ≤ 9999999 := Nat.min_le_left ..
  simp only [normalize, chainStep_limits _ hm h1, chainStep_limits _ (hlim c1) h2,
    chainStep_limits _ (hlim c2) h3, chainStep_limits _ (hlim c3) h4, Bool.false_or]

/-- With the P flag alone, a value too small to saturate is the rounded product with F_p. -/
theorem normalize_pressure_value {cfg : ChannelCfg} {m : Nat} (cap : Nat) (r : RefValues)
    (ht : cfg.basisT = false) (hdry : cfg.basisDry = false) (ho : cfg.basisO2 = false)
    (hp : cfg.basisP = true) (hm : m * 1266563 < 9999998000000) :
    (normalize cfg cap m r).value = (2 * (m * factorP (clampP r.p)) + 1000000) / 2000000 := by
  have hprod : m * factorP (clampP r.p) ≤ m * 1266563 :=
    Nat.mul_le_mul_left m (factorP_mem (clampP_mem r.p)).2
  simp only [normalize, ht, hp, hdry, ho, chainStep_false, chainStep_true]
  exact Nat.min_eq_right (by omega)

/-- Settles O32: every factor is a rounded division of clamped values with a range of its own, and the chain
goes from limited value to limited value. -/
theorem pressureFactor : Obligations.PressureFactor := by
  refine ⟨fun x => ⟨rfl, factorP_mem (clampP_mem x)⟩, by decide, by decide, by decide,
    fun cfg cap m r ht hdry ho hp hm => normalize_pressure_value cap r ht hdry ho hp hm,
    fun x => ⟨factorT_eq ?_, factorT_mem (clampT_mem x)⟩, by decide, by decide, by decide,
    fun x => ⟨rfl, factorH_mem (clampH_le x)⟩, by decide, by decide,
    fun x h wet => ⟨rfl, dryO2_le wet (clampO2_le x) (clampH_le h)⟩,
    fun o2Ref o2d cap hr hcap => ⟨rfl, ?_⟩, ?_⟩
  case refine_1 =>
    have h := (clampT_mem x).1
    omega
  case refine_2 =>
    obtain ⟨hlow, hhigh⟩ := factorO2_mem hr ((Nat.min_le_right o2d cap).trans hcap)
    exact ⟨hlow, hhigh, factorO2_self hr⟩
  case refine_3 =>
    rintro cfg cap m o2d c1 c2 c3 c4 r x hm rfl rfl h1 h2 h3 h4
    rw [normalize_eq hm h1 h2 h3 h4]
    refine ⟨rfl, ?_, ?_, ?_⟩
    · simp [or_assoc]
    · simp [ChannelCfg.needsH, hOutside_iff]
    · simp

end Sys2Proof.Machine
end

section
/-! What a completed interval says of a channel (spec/06, R91 to R95). -/

namespace Sys2Proof.Machine

/-! ## The interval average (R92) -/

theorem averageOf_zero (kind : Kind) (sum : Int) : averageOf kind 0 sum = none := if_pos rfl

theorem averageOf_eq {kind : Kind} {count : Nat} {sum : Int} (hk : kind ≠ .temperature)
    (hc : 1 ≤ count) (hs : 0 ≤ sum) :
    averageOf kind count sum = some ((2 * sum + count) / (2 * count)) := by
  have hround : (roundDiv sum.toNat count : Int) = (2 * sum + count) / (2 * count) := by
    simp [roundDiv, Int.toNat_of_nonneg hs]
  unfold averageOf
  rw [if_neg (by omega), ← hround]
  cases kind with
  | temperature => exact absurd rfl hk
  | pollutant | oxygen | moisture | pressure | flow => rfl

/-- A temperature sum is raised by 40,000 for each minute, so that the division is one of naturals. -/
theorem averageOf_temperature {count : Nat} {sum : Int} (hc : 1 ≤ count)
    (hs : -40000 * count ≤ sum) :
    averageOf .temperature count sum =
      some ((2 * (sum + 40000 * count) + count) / (2 * count) - 40000) := by
  have hraised : 0 ≤ sum + 40000 * count := by omega
  unfold averageOf
  rw [if_neg (by omega)]
  simp [roundDiv, Int.toNat_of_nonneg hraised]

/-- Over the considered minutes, but over all VALID ones of a POLLUTANT channel whose interval is not
OPERATING. -/
theorem intervalAverage_considered {kind : Kind} {cls : PlantClass} (a : ChanAcc)
    (h : kind ≠ .pollutant ∨ cls = .operating) :
    intervalAverage kind cls a = averageOf kind a.v a.vSum := by
  rw [intervalAverage, if_neg]
  simp only [Bool.and_eq_true, beq_iff_eq, bne_iff_ne]
  tauto

theorem intervalAverage_unassessed {cls : PlantClass} (a : ChanAcc) (h : cls ≠ .operating) :
    intervalAverage .pollutant cls a = averageOf .pollutant a.anyValid a.anySum :=
  if_pos (by simpa using h)

/-! ## Validity and the invalid reason (R91, R93) -/

theorem channelValid_iff (quota : Nat) (a : ChanAcc) :
    channelValid quota a = true ↔ a.considered * quota ≤ 100 * a.v := by
  rw [channelValid, decide_eq_true_iff, ceilPercent_le]

/-- The reasons of R93 in their order. -/
def Reason.order : List Reason := [.drift, .check, .fault, .maint, .few, .refLost]

/-- The dominant reason is the first of the greatest count. -/
theorem dominant_argmax (t : Tally) : Reason.order.argmax t.count = some t.dominant := by
  have hstep (a b : Reason) : List.argAux (fun b c => t.count c < t.count b) (some a) b =
      some (if t.count a < t.count b then b else a) := (apply_ite some ..).symm
  have hhead (a : Reason) : List.argAux (fun b c => t.count c < t.count b) none a = some a := rfl
  simp only [List.argmax, Reason.order, List.foldl_cons, List.foldl_nil, hhead, hstep]
  rfl

/-- In a list without repetitions, whatever stands before the first greatest element is less. -/
theorem lt_of_before_argmax {α : Type} [DecidableEq α] {f : α → Nat} {l before after : List α}
    {m : α} (hl : l.Nodup) (hm : l.argmax f = some m) (he : l = before ++ m :: after) :
    ∀ r ∈ before, f r < f m := by
  intro r hr
  by_contra hge
  have hfirst : l.idxOf m ≤ l.idxOf r :=
    (List.mem_argmax_iff.mp hm).2.2 r (by simp [he, hr]) (by omega)
  have hnot : m ∉ before := fun hmem =>
    (List.nodup_append.mp (he ▸ hl)).2.2 m hmem m List.mem_cons_self rfl
  rw [he, List.idxOf_append_of_mem hr, List.idxOf_append_of_notMem hnot] at hfirst
  have := List.idxOf_lt_length_of_mem hr
  omega

/-! ## The class and the validated value (R94, R95) -/

theorem validatedValue_le {average : Int} (cfg : ChannelCfg) (h : 0 ≤ average) :
    (validatedValue cfg average : Int) ≤ average := by
  unfold validatedValue
  omega

theorem validatedValue_noAllowance {cfg : ChannelCfg} {average : Int} (h : 0 ≤ average)
    (hc : cfg.cip = 0) : (validatedValue cfg average : Int) = average := by
  have hzero : roundDiv (cfg.limD * cfg.cip) 100 = 0 := by rw [hc, Nat.mul_zero]; rfl
  rw [validatedValue, hzero]
  omega

theorem limitClass_below (cfg : ChannelCfg) (v : Nat) : limitClass cfg v = .below ↔ v ≤ cfg.limB := by
  unfold limitClass
  split
  · simpa
  · split <;> simpa using ‹¬v ≤ cfg.limB›

theorem limitClass_above {cfg : ChannelCfg} (v : Nat) (h : cfg.limB ≤ cfg.limA) :
    limitClass cfg v = .above ↔ cfg.limA < v := by
  unfold limitClass
  split
  · simp only [reduceCtorEq, false_iff]; omega
  · split <;> simp <;> omega

section classes

variable {cfg : ChannelCfg} {quota : Nat} {cls : PlantClass} {a : ChanAcc}

theorem channelClass_assessed {average : Int} (hk : cfg.kind = .pollutant) (ho : cls = .operating)
    (hv : a.considered * quota ≤ 100 * a.v)
    (ha : intervalAverage cfg.kind cls a = some average) :
    channelClass cfg quota cls a =
      (limitClass cfg (validatedValue cfg average), some (validatedValue cfg average)) := by
  rw [channelClass, if_pos (by simp [hk]), if_neg (by simp [ho]),
    if_pos ((channelValid_iff quota a).mpr hv), ha]
  rfl

theorem channelClass_unassessed (hk : cfg.kind = .pollutant) (ho : cls ≠ .operating) :
    channelClass cfg quota cls a = (.notAssessed, none) := by
  rw [channelClass, if_pos (by simp [hk]), if_pos (by simp [ho])]

/-- Below the quota a channel of any kind names the dominant reason. -/
theorem channelClass_invalid (h : cfg.kind ≠ .pollutant ∨ cls = .operating)
    (hv : 100 * a.v < a.considered * quota) :
    channelClass cfg quota cls a = (.invalid a.tally.dominant, none) := by
  have hquota : ¬channelValid quota a = true := by rw [channelValid_iff]; omega
  rw [channelClass]
  by_cases hk : cfg.kind = .pollutant
  · rw [if_pos (by simp [hk]), if_neg (by simp [h.resolve_left (not_not.mpr hk)]), if_neg hquota]
  · rw [if_neg (by simp [hk]), if_neg hquota]

theorem channelClass_reference (hk : cfg.kind ≠ .pollutant)
    (hv : a.considered * quota ≤ 100 * a.v) : channelClass cfg quota cls a = (.valid, none) := by
  rw [channelClass, if_neg (by simp [hk]), if_pos ((channelValid_iff quota a).mpr hv)]

end classes

/-- Settles O35: a channel's result is its `intervalAverage` and its `channelClass`, which the cases of its
kind, the plant class and the quota determine. -/
theorem validatedValueIsAtMostTheAverage : Obligations.ValidatedValueIsAtMostTheAverage := by
  refine ⟨fun cfg average h => ⟨validatedValue_le cfg h, validatedValue_noAllowance h,
    fun v hlim => ⟨limitClass_above v hlim, limitClass_below cfg v⟩⟩, ?_, ?_⟩
  · rintro cfg quota cls switched a x rfl
    simp only [chanResult]
    refine ⟨?_, ?_, ?_, ?_, ?_⟩
    · rintro average hk ho hv hone hsum rfl
      have haverage : intervalAverage cfg.kind cls a = some ((2 * a.vSum + a.v) / (2 * a.v)) := by
        rw [intervalAverage_considered a (.inr ho), averageOf_eq (by simp [hk]) hone hsum]
      rw [channelClass_assessed hk ho hv haverage]
      exact ⟨haverage, rfl, rfl⟩
    · intro hk ho hv
      rw [channelClass_invalid (.inr ho) hv, intervalAverage_considered a (.inr ho)]
      exact ⟨rfl, rfl, fun hnone => hnone ▸ averageOf_zero ..⟩
    · intro hk ho
      rw [channelClass_unassessed hk ho, hk, intervalAverage_unassessed a ho]
      exact ⟨rfl, rfl, averageOf_eq (by decide)⟩
    · intro hk
      have hinvalid := channelClass_invalid (cfg := cfg) (quota := quota) (cls := cls) (a := a) (.inl hk)
      by_cases hv : a.considered * quota ≤ 100 * a.v
      · rw [channelClass_reference hk hv]
        exact ⟨rfl, fun _ => rfl, fun hless => absurd hv (by omega)⟩
      · rw [hinvalid (by omega)]
        exact ⟨rfl, fun h => absurd h hv, fun _ => rfl⟩
    · intro hk hone hsum
      rw [intervalAverage_considered a (.inl (by simp [hk])), hk, averageOf_temperature hone hsum]
  · intro t before after he
    exact ⟨lt_of_before_argmax (by decide) (dominant_argmax t) he, fun r hr =>
      List.le_of_mem_argmax (f := t.count) (l := Reason.order)
        (by simp only [Reason.order, he]; simp [hr]) (dominant_argmax t)⟩

end Sys2Proof.Machine
end

section
/-! The end of an interval, of a day and of a year (spec/06, R96 to R109). -/

namespace Sys2Proof.Machine

/-! ## An interval is taken into the day and the year (R99) -/

/-- The counts of a channel's year agree: each OPERATING interval is valid or invalid, and only valid ones
lie above L_B. -/
def YearChan.InStep (y : YearChan) : Prop :=
  y.valid + y.invalid = y.operating ∧ y.band + y.above ≤ y.valid

theorem YearChan.InStep.takeClass {y : YearChan} {cls : IntervalClass} (first : Bool) (v : Nat)
    (h : y.InStep) (hn : cls ≠ .notAssessed) (hv : cls ≠ .valid) :
    (y.takeClass first cls v).InStep := by
  obtain ⟨hsum, hover⟩ := h
  cases cls with
  | below | band | above | invalid =>
    constructor <;> simp only [YearChan.takeClass, YearChan.addValid] <;> omega
  | notAssessed => exact absurd rfl hn
  | valid => exact absurd rfl hv

theorem countClass_chans (cls : PlantClass) (y : YearCounters) :
    (y.countClass cls).chans = y.chans := by
  cases cls <;> rfl

theorem countClass_recorded (cls : PlantClass) (d : DayAcc) :
    (d.countClass cls).recorded = d.recorded + 1 := by
  cases cls <;> rfl

/-- A channel's year takes the class of an OPERATING interval, or stays. -/
theorem takeInterval_year (img : Image) (iv : StoredInterval) (e : Engine) (c : Chan) :
    (e.takeInterval img iv).year.chans.get c = e.year.chans.get c ∨
      ∃ first cls v, iv.chans.get c = some (cls, v) ∧
        (e.takeInterval img iv).year.chans.get c = (e.year.chans.get c).takeClass first cls v := by
  simp only [Engine.takeInterval, eight_get_build, countClass_chans]
  split
  · rename_i cls v htakes
    exact .inr ⟨_, cls, v, (Option.ite_none_right_eq_some.mp htakes).2, rfl⟩
  · exact .inl rfl

theorem takeInterval_inStep {img : Image} {iv : StoredInterval} {e : Engine} {c : Chan}
    (hc : ∀ cls v, iv.chans.get c = some (cls, v) → cls ≠ .notAssessed ∧ cls ≠ .valid)
    (h : (e.year.chans.get c).InStep) : ((e.takeInterval img iv).year.chans.get c).InStep := by
  rcases takeInterval_year img iv e c with hsame | ⟨first, cls, v, hiv, htaken⟩
  · exact hsame ▸ h
  · obtain ⟨hn, hv⟩ := hc cls v hiv
    exact htaken ▸ h.takeClass first v hn hv

/-! ## The close of a day (R102 to R105) -/

theorem dayClass_valid (st : StationCfg) (u : Nat) (d : DayChan) :
    dayClass st u d = .valid ↔ d.operating ≠ 0 ∧ 1 ≤ d.valid ∧
      d.invalid + (if st.countUnrecorded then u else 0) ≤ st.nInv := by
  unfold dayClass
  generalize (if st.countUnrecorded then u else 0) = k
  dsimp only
  by_cases ho : d.operating = 0
  · simp [ho]
  · rw [if_neg ho]
    split <;> simp <;> omega

theorem dayClass_noOperation (st : StationCfg) (u : Nat) (d : DayChan) :
    dayClass st u d = .noOperation ↔ d.operating = 0 := by
  unfold dayClass
  generalize (if st.countUnrecorded then u else 0) = k
  dsimp only
  by_cases ho : d.operating = 0
  · simp [ho]
  · rw [if_neg ho]
    split <;> simp [ho]

/-- DAY_EXCEEDANCE of a channel: a VALID day whose D exceeds L_D (R102, R103). -/
theorem dayResult_exceeded (st : StationCfg) (cfg : ChannelCfg) (u : Nat) (d : DayChan) :
    (dayResult st cfg u d).exceeded = true ↔
      cfg.isPollutant = true ∧ d.operating ≠ 0 ∧ 1 ≤ d.valid ∧
        d.invalid + (if st.countUnrecorded then u else 0) ≤ st.nInv ∧
        cfg.limD < (2 * d.sumV + d.valid) / (2 * d.valid) := by
  have haverage (h : 1 ≤ d.valid) :
      (dayAverage d).getD 0 = (2 * d.sumV + d.valid) / (2 * d.valid) := by
    rw [dayAverage, if_neg (by omega)]
    rfl
  simp only [dayResult, Bool.and_eq_true, beq_iff_eq, decide_eq_true_iff, dayClass_valid]
  constructor
  · rintro ⟨⟨hp, ho, hv, hi⟩, hl⟩
    exact ⟨hp, ho, hv, hi, haverage hv ▸ hl⟩
  · rintro ⟨hp, ho, hv, hi, hl⟩
    exact ⟨⟨hp, ho, hv, hi⟩, (haverage hv).symm ▸ hl⟩

/-- A closed day is a valid or an invalid one unless nothing operated (R104). -/
theorem takeDay_days (r : DayResult) (y : YearChan) :
    (y.takeDay r).validDays + (y.takeDay r).invalidDays =
      y.validDays + y.invalidDays + (if r.cls = .noOperation then 0 else 1) := by
  unfold YearChan.takeDay
  cases r.cls <;> simp <;> omega

/-- DAY_EXCEEDANCE stands when a channel exceeds; a close in its time judges it anew (R103). -/
theorem closeDay_dayExceedance (img : Image) (day : Day) (e : Engine) :
    (e.closeDay img false day).1.dayExceedance = true ↔
      ∃ c, (dayResult img.station (img.chans.get c) (48 - e.day.recorded)
        (e.day.chans.get c)).exceeded = true := by
  show (dayResults img (48 - e.day.recorded) e.day).any (·.exceeded) = true ↔ _
  simp only [eight_any, dayResults, eight_get_build]

theorem closeDay_days {img : Image} {c : Chan} (late : Bool) (day : Day) (e : Engine)
    (hc : (img.chans.get c).isPollutant = true) :
    ((e.closeDay img late day).1.year.chans.get c).validDays +
        ((e.closeDay img late day).1.year.chans.get c).invalidDays =
      (e.year.chans.get c).validDays + (e.year.chans.get c).invalidDays +
        (if (e.day.chans.get c).operating = 0 then 0 else 1) := by
  have hyear : (e.closeDay img late day).1.year.chans.get c = (e.year.chans.get c).takeDay
      (dayResult img.station (img.chans.get c) (48 - e.day.recorded) (e.day.chans.get c)) := by
    simp [Engine.closeDay, YearCounters.takeDay, dayResults, hc]
  simp only [hyear, takeDay_days, dayResult, dayClass_noOperation]

/-! ## The close of the held day and of its year (R101, R107 to R109) -/

/-- The record of a closed day. -/
theorem closeDay_job (img : Image) (late : Bool) (day : Day) (e : Engine) :
    ∃ data, (e.closeDay img late day).2 = .day day data := ⟨_, rfl⟩

/-- Within a year the day's record is all that is submitted. -/
theorem closeHeldDay_within {s : State} {day : Day} (hh : s.eng.held = some day)
    (hd : day.day ≠ lastDayOf day.year) :
    closeHeldDay s = submitJob (s.eng.closeDay s.cfg false day).2
      { s with eng := (s.eng.closeDay s.cfg false day).1 } := by
  rw [closeHeldDay, hh]
  exact if_neg (by simpa [Day.endsYear] using hd)

/-- The last day of a year clears the year's counters after the day has entered them. -/
theorem closeHeldDay_eng {s : State} {day : Day} (hh : s.eng.held = some day) :
    (closeHeldDay s).eng = if day.day = lastDayOf day.year
      then { (s.eng.closeDay s.cfg false day).1 with year := YearCounters.cleared }
      else (s.eng.closeDay s.cfg false day).1 := by
  by_cases hd : day.day = lastDayOf day.year
  · rw [if_pos hd, closeHeldDay, hh]
    dsimp only
    rw [if_pos (by simpa [Day.endsYear] using hd)]
    simp [closeYear]
  · rw [if_neg hd, closeHeldDay_within hh hd]
    rfl

/-- Whether or not the year ends with it, the next day is held with cleared accumulators (R105). -/
theorem closeHeldDay_engine {s : State} {day : Day} (hh : s.eng.held = some day) :
    (closeHeldDay s).eng.held = some day.next ∧ (closeHeldDay s).eng.day = DayAcc.cleared ∧
      (closeHeldDay s).eng.dayExceedance = (s.eng.closeDay s.cfg false day).1.dayExceedance ∧
      (closeHeldDay s).eng.exceedance = s.eng.exceedance := by
  rw [closeHeldDay_eng hh]
  split <;> exact ⟨rfl, rfl, rfl, rfl⟩

/-- Within a year the day's unrecorded intervals and each operated day enter the counters (R102, R104). -/
theorem closeHeldDay_within_year {s : State} {day : Day} (hh : s.eng.held = some day)
    (hd : day.day ≠ lastDayOf day.year) :
    (closeHeldDay s).eng.year.unrecorded = s.eng.year.unrecorded + (48 - s.eng.day.recorded) ∧
      ∀ c, (s.cfg.chans.get c).isPollutant = true →
        ((closeHeldDay s).eng.year.chans.get c).validDays +
            ((closeHeldDay s).eng.year.chans.get c).invalidDays =
          (s.eng.year.chans.get c).validDays + (s.eng.year.chans.get c).invalidDays +
            (if (s.eng.day.chans.get c).operating = 0 then 0 else 1) := by
  rw [closeHeldDay_eng hh, if_neg hd]
  exact ⟨rfl, fun c hc => closeDay_days false day s.eng hc⟩

/-- Behind an operation in flight the day record waits at the tail of the record queue. -/
theorem closeHeldDay_within_arch {s : State} {day : Day} (hh : s.eng.held = some day)
    (hd : day.day ≠ lastDayOf day.year) (hc : s.arch.condition = .ready)
    (ha : s.arch.activity ≠ .idle) (hq : s.arch.queue.length < 16) :
    ∃ data, (closeHeldDay s).arch =
      { s.arch with queue := s.arch.queue ++ [.day day data] } := by
  obtain ⟨data, hdata⟩ := closeDay_job s.cfg false day s.eng
  refine ⟨data, ?_⟩
  rw [closeHeldDay_within hh hd, hdata, submitJob_waits (by exact hc) (by exact ha) (by exact hq)]

/-- Behind an operation in flight the last day of a year leaves its day record, nine summary records and
the year-end job (R101, R109), and clears the archive's counts of the year (R108). -/
theorem closeHeldDay_yearEnd_arch {s : State} {day : Day} (hh : s.eng.held = some day)
    (hd : day.day = lastDayOf day.year) (hc : s.arch.condition = .ready)
    (ha : s.arch.activity ≠ .idle) (hq : s.arch.queue.length ≤ 5) :
    ∃ records, records.length = 10 ∧ (closeHeldDay s).arch = { s.arch with
      queue := s.arch.queue ++ records ++ [.yearEnd day.year (nextYear day.year)]
      counts := { s.arch.counts with yearDropped := 0, yearLost := 0 } } := by
  obtain ⟨data, hdata⟩ := closeDay_job s.cfg false day s.eng
  obtain ⟨v, hv⟩ : ∃ v : State, v = { s with
    eng := (s.eng.closeDay s.cfg false day).1
    arch := { s.arch with queue := s.arch.queue ++ [.day day data] } } := ⟨_, rfl⟩
  have hday : submitJob (s.eng.closeDay s.cfg false day).2
      { s with eng := (s.eng.closeDay s.cfg false day).1 } = v := by
    rw [hdata, submitJob_waits (by exact hc) (by exact ha) (by simp; omega), hv]
  refine ⟨.day day data :: (closeYear false day.year v).2, rfl, ?_⟩
  rw [closeHeldDay, hh]
  dsimp only
  rw [if_pos (by simpa [Day.endsYear] using hd), hday,
    submitJobs_waits (by simp [closeYear, hv, hc]) (by simp [closeYear, hv, ha])
      (by simp [closeYear, hv, allChans]; omega)]
  simp [closeYear, hv]

/-! ## The end of an interval (R87, R96 to R101) -/

/-- The station with the record and the SUMMARY frame of its completed interval submitted and the interval
taken into the day and the year (R96 to R99): what `intervalEnd` makes of it before a day closes. -/
def State.completeInterval (stamp : IStamp) (cls : PlantClass) (n : Notice)
    (chs : Eight (Option ChanResult)) (s : State) : State :=
  { submitFrame
      (buildFrame 2 0 (summaryPayload stamp cls (stationFlags n s.eng.acc.unknown) chs))
      (submitJob (.interval stamp (intervalRecord stamp cls n s.eng.acc chs)) s) with
    eng := { s.eng.takeInterval s.cfg (storedOf cls chs) with exceedance := anyAbove chs } }

/-- The head of the interval list is removed and the accumulators are cleared (R87). -/
def Engine.removeHead (rest : List IntervalEntry) (e : Engine) : Engine :=
  { e with intervals := rest, acc := IntervalAcc.cleared }

theorem anyAbove_iff (chs : Eight (Option ChanResult)) :
    anyAbove chs = true ↔ ∃ c x, chs.get c = some x ∧ x.cls = .above := by
  rw [anyAbove, eight_any]
  refine exists_congr fun c => ?_
  cases chs.get c <;> simp

section ends

variable {s : State} {stamp : IStamp} {sw : Eight Bool} {n : Notice} {rest : List IntervalEntry}
  {cls : PlantClass} {chs : Eight (Option ChanResult)}

/-- Behind an operation in flight the interval's record waits at the tail of the record queue. -/
theorem completeInterval_arch (stamp : IStamp) (cls : PlantClass) (n : Notice)
    (chs : Eight (Option ChanResult)) (hc : s.arch.condition = .ready)
    (ha : s.arch.activity ≠ .idle) (hq : s.arch.queue.length < 16) :
    (s.completeInterval stamp cls n chs).arch = { s.arch with
      queue := s.arch.queue ++ [.interval stamp (intervalRecord stamp cls n s.eng.acc chs)] } := by
  rw [State.completeInterval, submitJob_waits hc ha hq]
  rfl

/-- The day record follows the record of the day's last interval. -/
theorem completeInterval_closeDay_arch (cls : PlantClass) (n : Notice)
    (chs : Eight (Option ChanResult)) (hh : s.eng.held = some stamp.toDay)
    (hd : stamp.day ≠ lastDayOf stamp.year) (hc : s.arch.condition = .ready)
    (ha : s.arch.activity ≠ .idle) (hq : s.arch.queue.length ≤ 14) :
    ∃ data, (closeHeldDay (s.completeInterval stamp cls n chs)).arch = { s.arch with
      queue := s.arch.queue ++
        [.interval stamp (intervalRecord stamp cls n s.eng.acc chs), .day stamp.toDay data] } := by
  have hrecord := completeInterval_arch stamp cls n chs hc ha (by omega)
  obtain ⟨data, hclosed⟩ := closeHeldDay_within_arch (s := s.completeInterval stamp cls n chs)
    hh hd (by rw [hrecord]; exact hc) (by rw [hrecord]; exact ha)
    (by rw [hrecord, List.length_append, List.length_singleton]; omega)
  refine ⟨data, ?_⟩
  rw [hclosed, hrecord, List.append_assoc]
  rfl

/-- The record of a year's last interval brings eleven jobs behind it, the year-end job last. -/
theorem completeInterval_closeYear_arch (cls : PlantClass) (n : Notice)
    (chs : Eight (Option ChanResult)) (hh : s.eng.held = some stamp.toDay)
    (hd : stamp.day = lastDayOf stamp.year) (hc : s.arch.condition = .ready)
    (ha : s.arch.activity ≠ .idle) (hq : s.arch.queue.length ≤ 4) :
    (closeHeldDay (s.completeInterval stamp cls n chs)).arch.queue.length =
        s.arch.queue.length + 12 ∧
      (closeHeldDay (s.completeInterval stamp cls n chs)).arch.queue.getLast? =
        some (.yearEnd stamp.year (nextYear stamp.year)) ∧
      (closeHeldDay (s.completeInterval stamp cls n chs)).arch.counts.yearDropped = 0 ∧
      (closeHeldDay (s.completeInterval stamp cls n chs)).arch.counts.yearLost = 0 := by
  have hrecord := completeInterval_arch stamp cls n chs hc ha (by omega)
  obtain ⟨records, hten, hclosed⟩ := closeHeldDay_yearEnd_arch
    (s := s.completeInterval stamp cls n chs) hh hd (by rw [hrecord]; exact hc)
    (by rw [hrecord]; exact ha)
    (by rw [hrecord, List.length_append, List.length_singleton]; omega)
  rw [hclosed, hrecord]
  exact ⟨by simp [hten], List.getLast?_concat .., rfl, rfl⟩

/-- An interval that is not the last of the held day closes no day. -/
theorem intervalEnd_within (hs : s.eng.intervals = ⟨stamp, sw, some n⟩ :: rest)
    (hcls : cls = plantClass s.cfg.station.pOp s.eng.acc.minutes s.eng.acc.operating
      s.eng.acc.transition)
    (hchs : chs = chanResults s.cfg cls sw s.eng.acc)
    (hw : stamp.index ≠ 47 ∨ s.eng.held ≠ some stamp.toDay) :
    intervalEnd s = { s.completeInterval stamp cls n chs with
      eng := (s.completeInterval stamp cls n chs).eng.removeHead rest } := by
  subst hcls hchs
  have hopen : ¬(stamp.index = 47 ∧ s.eng.held = some stamp.toDay) := by tauto
  unfold intervalEnd
  rw [hs]
  dsimp only
  rw [if_neg (by exact hopen)]
  rfl

/-- The last interval of the held day closes the day (R101). -/
theorem intervalEnd_closing (hs : s.eng.intervals = ⟨stamp, sw, some n⟩ :: rest)
    (hcls : cls = plantClass s.cfg.station.pOp s.eng.acc.minutes s.eng.acc.operating
      s.eng.acc.transition)
    (hchs : chs = chanResults s.cfg cls sw s.eng.acc)
    (hi : stamp.index = 47) (hh : s.eng.held = some stamp.toDay) :
    intervalEnd s = { closeHeldDay (s.completeInterval stamp cls n chs) with
      eng := (closeHeldDay (s.completeInterval stamp cls n chs)).eng.removeHead rest } := by
  subst hcls hchs
  unfold intervalEnd
  rw [hs]
  dsimp only
  rw [if_pos (by exact ⟨hi, hh⟩)]
  rfl

end ends

/-- Settles O36: the interval completes, and then the held day may close behind it, with its year or
without. -/
theorem yearCountsStayInStep : Obligations.YearCountsStayInStep := by
  refine ⟨fun img iv e c hc hsum hover => ?_, ?_⟩
  · obtain ⟨hsum', hover'⟩ := takeInterval_inStep (img := img) hc ⟨hsum, hover⟩
    exact ⟨_, rfl, hsum', hover', countClass_recorded ..⟩
  rintro s t stamp sw n rest cls chs e u hs rfl hcls hchs rfl rfl
  by_cases hw : stamp.index ≠ 47 ∨ s.eng.held ≠ some stamp.toDay
  · rw [intervalEnd_within hs hcls hchs hw]
    exact ⟨rfl, rfl, rfl, anyAbove_iff chs,
      fun _ => ⟨rfl, completeInterval_arch stamp cls n chs⟩,
      fun hi hh => absurd hw (by tauto)⟩
  · obtain ⟨hi, hh⟩ : stamp.index = 47 ∧ s.eng.held = some stamp.toDay := by tauto
    have hheld : (s.completeInterval stamp cls n chs).eng.held = some stamp.toDay := hh
    obtain ⟨hnext, hday, hexceeds, habove⟩ := closeHeldDay_engine hheld
    rw [intervalEnd_closing hs hcls hchs hi hh]
    refine ⟨rfl, rfl, ?_, ?_, fun h => absurd h hw, fun _ _ => ⟨hnext, hday, ?_, fun hd => ?_,
      fun hd => ⟨?_, completeInterval_closeYear_arch cls n chs hh hd⟩⟩⟩
    case refine_1 =>
      have hbus : (closeHeldDay (s.completeInterval stamp cls n chs)).bus =
          (s.completeInterval stamp cls n chs).bus := by simp
      exact hbus
    case refine_2 => exact (Bool.eq_iff_iff.mp habove).trans (anyAbove_iff chs)
    case refine_3 =>
      refine (Bool.eq_iff_iff.mp hexceeds).trans ((closeDay_dayExceedance ..).trans ?_)
      simp only [dayResult_exceeded, exists_eq_left]
      rfl
    case refine_4 =>
      obtain ⟨hunrecorded, hdays⟩ := closeHeldDay_within_year hheld hd
      exact ⟨hunrecorded, hdays, completeInterval_closeDay_arch cls n chs hh hd⟩
    case refine_5 =>
      show (closeHeldDay (s.completeInterval stamp cls n chs)).eng.year = YearCounters.cleared
      rw [closeHeldDay_eng hheld, if_pos (by exact hd)]

end Sys2Proof.Machine
end

section
/-! The timers of a check: from SETTLE to MEASURE, from MEASURE to PURGE, and the two ends of a purge
(spec/07, R117 to R126). -/

namespace Sys2Proof.Machine

/-! ## The settle timer (R117) -/

/-- The measured channels of a check are those enabled on its path with an entry for its valve code
(R111, R117). -/
theorem measuredChans_contains (img : Image) (pair : CheckPair) (c : Chan) :
    (img.measuredChans pair).contains c =
      ((img.chans.get c).onPath pair.path && ((img.chans.get c).valveEntry pair.valve).isSome) := by
  rw [Bool.eq_iff_iff, List.contains_iff_mem]
  simp [Image.measuredChans, Image.pathChans, mem_allChans, and_comm]

theorem measuredChans_nodup (img : Image) (pair : CheckPair) : (img.measuredChans pair).Nodup :=
  have hall : allChans.Nodup := by decide
  (hall.filter _).filter _

theorem exec_settleExpiry {s : State} {pair : CheckPair} {n : Nat}
    (hcur : s.chk.current = some ⟨pair, .settle n⟩) :
    exec .settleExpiry s = .next (enterMeasure pair s) := by
  show execSettleExpiry s = _
  rw [execSettleExpiry, hcur]

/-- Settles O38: the expiry is the entering of MEASURE, which builds the accumulators anew. -/
theorem settleExpiryEntersMeasure : Obligations.SettleExpiryEntersMeasure := by
  intro s pair n hcur
  refine ⟨_, exec_settleExpiry hcur, rfl, rfl, rfl, fun c => ?_⟩
  rw [← measuredChans_contains]
  exact eight_get_build _ c

/-! ## The measure timer (R119, R122 to R124) -/

theorem eight_set_get {α : Type} (e : Eight α) (c : Chan) : e.set c (e.get c) = e :=
  eight_ext fun d => by
    rw [eight_get_set]
    split
    · next h => rw [h]
    · rfl

theorem clampInt_eq_max_min {lo hi : Int} (x : Int) (h : lo ≤ hi) :
    clampInt lo hi x = max lo (min hi x) := by
  unfold clampInt
  split
  · omega
  · split <;> omega

@[simp] theorem driftPair_get_set (p : DriftPair) (k k' : CheckKind) (r : DriftRecord) :
    (p.set k r).get k' = if k' = k then r else p.get k' := by
  cases k <;> cases k' <;> rfl

/-- A channel is drift-locked when the record of some kind is (R121). -/
theorem driftPair_locked_iff (p : DriftPair) : p.locked = true ↔ ∃ k, (p.get k).lock = true := by
  rw [DriftPair.locked, Bool.or_eq_true]
  constructor
  · rintro (h | h)
    · exact ⟨.zero, h⟩
    · exact ⟨.span, h⟩
  · rintro ⟨k, h⟩
    cases k
    · exact .inl h
    · exact .inr h

/-- The positive sum of a result, within its limits (R122). -/
theorem recordResult_spos (cfg : ChannelCfg) (d : Int) (r : DriftRecord) :
    ((r.result cfg d).spos : Int) = max 0 (min 9999999 (r.spos + d - cfg.driftK)) := by
  have hclamp := clampInt_mem 0 9999999 (r.spos + d - cfg.driftK) (by decide)
  rw [← clampInt_eq_max_min _ (by decide)]
  exact Int.toNat_of_nonneg hclamp.1

/-- The negative sum of a result, within its limits (R122). -/
theorem recordResult_sneg (cfg : ChannelCfg) (d : Int) (r : DriftRecord) :
    ((r.result cfg d).sneg : Int) = max 0 (min 9999999 (r.sneg - d - cfg.driftK)) := by
  have hclamp := clampInt_mem 0 9999999 (r.sneg - d - cfg.driftK) (by decide)
  rw [← clampInt_eq_max_min _ (by decide)]
  exact Int.toNat_of_nonneg hclamp.1

/-- The conditions of R123 stand on the sums of the result itself; a lock once set stays. -/
theorem recordResult_lock_iff (cfg : ChannelCfg) (d : Int) (r : DriftRecord) :
    (r.result cfg d).lock = true ↔ r.lock = true ∨ cfg.driftH < (r.result cfg d).spos ∨
      cfg.driftH < (r.result cfg d).sneg ∨ cfg.driftHard < d.natAbs := by
  simp [DriftRecord.result, DriftRecord.over, or_assoc]

/-- What the check of a pair leaves of a channel's drift records when the channel has a valve entry for
it: with fewer than 10 words they stay, and otherwise the record of the entry's kind takes the result. -/
def State.driftResult (s : State) (c : Chan) (entry : ValveEntry) : DriftPair :=
  let old := s.chk.drift.get c
  let acc := s.chk.acc.get c
  if acc.n < 10 then old
  else old.set entry.kind ((old.get entry.kind).result (s.cfg.chans.get c)
    (calibrate (s.calSet c) acc.n acc.sum - entry.reference))

/-- The drift records of a channel after a check of a pair; without a valve entry they stay. -/
def State.checkedDrift (s : State) (pair : CheckPair) (c : Chan) : DriftPair :=
  match (s.cfg.chans.get c).valveEntry pair.valve with
  | none => s.chk.drift.get c
  | some entry => s.driftResult c entry

/-- A channel's new records depend on the image, its calibration set, its own accumulator and its own
old records alone. -/
theorem checkedDrift_congr {s t : State} {pair : CheckPair} {c : Chan} (hl : t.loader = s.loader)
    (hp : t.port = s.port) (ha : t.chk.acc = s.chk.acc)
    (hd : t.chk.drift.get c = s.chk.drift.get c) :
    t.checkedDrift pair c = s.checkedDrift pair c := by
  simp only [State.checkedDrift, State.driftResult, State.calSet, State.cfg, hl, hp, ha, hd]

/-- The result of one channel writes its drift records and nothing else of the sequencer. -/
theorem measureChannel_chk (pair : CheckPair) (c : Chan) (s : State) :
    (measureChannel pair c s).chk =
      { s.chk with drift := s.chk.drift.set c (s.checkedDrift pair c) } := by
  unfold measureChannel State.checkedDrift State.driftResult
  cases hentry : (s.cfg.chans.get c).valveEntry pair.valve with
  | none => simp only [hentry, eight_set_get]
  | some entry =>
    simp only [hentry]
    by_cases hfew : (s.chk.acc.get c).n < 10
    · simp only [if_pos hfew, submitEvent_chk, eight_set_get]
    · simp only [if_neg hfew]
      split <;> simp only [submitEvent_chk, Eight.modify]

/-- A channel's drift records after the results of the channels `l`. -/
def State.driftAfter (s : State) (pair : CheckPair) (l : List Chan) (c : Chan) : DriftPair :=
  if c ∈ l then s.checkedDrift pair c else s.chk.drift.get c

/-- The result of a channel that is not among `l` goes before those of `l`. -/
theorem driftAfter_cons {s : State} {pair : CheckPair} {c : Chan} {l : List Chan} (hc : c ∉ l) :
    (measureChannel pair c s).driftAfter pair l = s.driftAfter pair (c :: l) := by
  have hchk := measureChannel_chk pair c s
  funext d
  unfold State.driftAfter
  by_cases hd : d = c
  · subst hd
    rw [if_neg hc, if_pos List.mem_cons_self, hchk, eight_get_set, if_pos rfl]
  · have hdrift : (measureChannel pair c s).chk.drift.get d = s.chk.drift.get d := by
      rw [hchk, eight_get_set, if_neg hd]
    have hcheck : (measureChannel pair c s).checkedDrift pair d = s.checkedDrift pair d :=
      checkedDrift_congr (by simp) (by simp) (by rw [hchk]) hdrift
    simp [hcheck, hdrift, hd]

/-- The results of several channels write their drift records and nothing else of the sequencer. -/
theorem foldMeasure_chk (pair : CheckPair) {l : List Chan} (hl : l.Nodup) (s : State) :
    (l.foldl (fun s c => measureChannel pair c s) s).chk =
      { s.chk with drift := Eight.build (s.driftAfter pair l) } := by
  induction l generalizing s with
  | nil =>
    have hsame : Eight.build (s.driftAfter pair []) = s.chk.drift :=
      eight_ext fun c => eight_get_build _ c
    rw [hsame]
    rfl
  | cons c l ih =>
    obtain ⟨hc, hl⟩ := List.nodup_cons.mp hl
    rw [List.foldl_cons, ih hl, driftAfter_cons hc, measureChannel_chk]

/-- With fewer than 10 words there is no result (R119). -/
theorem driftResult_few {s : State} {c : Chan} (entry : ValveEntry) (h : (s.chk.acc.get c).n < 10) :
    s.driftResult c entry = s.chk.drift.get c :=
  if_pos h

/-- With 10 words the record of the entry's kind takes the result, and the other stays. -/
theorem driftResult_get {s : State} {c : Chan} (entry : ValveEntry) (k : CheckKind)
    (h : 10 ≤ (s.chk.acc.get c).n) :
    (s.driftResult c entry).get k =
      if k = entry.kind then
        ((s.chk.drift.get c).get entry.kind).result (s.cfg.chans.get c)
          (calibrate (s.calSet c) (s.chk.acc.get c).n (s.chk.acc.get c).sum - entry.reference)
      else (s.chk.drift.get c).get k := by
  unfold State.driftResult
  rw [if_neg (by omega), driftPair_get_set]

/-- A check's result takes no lock off a channel (R121, R123). -/
theorem driftResult_keeps_locked {s : State} {c : Chan} (entry : ValveEntry)
    (h : (s.chk.drift.get c).locked = true) : (s.driftResult c entry).locked = true := by
  by_cases hfew : (s.chk.acc.get c).n < 10
  · rw [driftResult_few entry hfew]; exact h
  · obtain ⟨k, hk⟩ := (driftPair_locked_iff _).mp h
    refine (driftPair_locked_iff _).mpr ⟨k, ?_⟩
    rw [driftResult_get entry k (by omega)]
    split
    · next heq => exact (recordResult_lock_iff ..).mpr (.inl (heq ▸ hk))
    · exact hk

/-- The check of a pair takes no lock off a channel, measured or not. -/
theorem driftAfter_keeps_locked {s : State} (pair : CheckPair) (l : List Chan) {c : Chan}
    (h : (s.chk.drift.get c).locked = true) : (s.driftAfter pair l c).locked = true := by
  unfold State.driftAfter State.checkedDrift
  split
  · split
    · exact h
    · exact driftResult_keeps_locked _ h
  · exact h

/-- A channel that the check does not measure keeps its drift records. -/
theorem driftAfter_unmeasured {s : State} {pair : CheckPair} {c : Chan}
    (h : (s.cfg.measuredChans pair).contains c = false) :
    s.driftAfter pair (s.cfg.measuredChans pair) c = s.chk.drift.get c :=
  if_neg fun hmem => by simp [hmem] at h

/-- A measured channel has the drift records that its valve entry's result leaves. -/
theorem driftAfter_measured {s : State} {pair : CheckPair} {c : Chan} {entry : ValveEntry}
    (hpath : (s.cfg.chans.get c).onPath pair.path = true)
    (hentry : (s.cfg.chans.get c).valveEntry pair.valve = some entry) :
    s.driftAfter pair (s.cfg.measuredChans pair) c = s.driftResult c entry := by
  have hmem : c ∈ s.cfg.measuredChans pair := by
    rw [← List.contains_iff_mem, measuredChans_contains, hpath, hentry]; rfl
  rw [State.driftAfter, if_pos hmem, State.checkedDrift, hentry]

/-- What the expiry of the measure timer leaves of the sequencer (R119, R124). -/
theorem enterPurge_measured_chk (pair : CheckPair) (s : State) :
    (enterPurge pair
      ((s.cfg.measuredChans pair).foldl (fun s c => measureChannel pair c s) s)).chk =
      { s.chk with
        current := some ⟨pair, .purge (some (1000 * (s.cfg.path pair.path).purge))
          (1000 * (s.cfg.path pair.path).ceiling) false⟩
        drift := Eight.build (s.driftAfter pair (s.cfg.measuredChans pair)) } := by
  have hfold := foldMeasure_chk pair (measuredChans_nodup s.cfg pair) s
  have hcfg : State.cfg ((s.cfg.measuredChans pair).foldl (fun s c => measureChannel pair c s) s) =
      s.cfg := by simp [State.cfg]
  rw [enterPurge, hfold, hcfg]

theorem exec_measureExpiry {s : State} {pair : CheckPair} {n : Nat}
    (hcur : s.chk.current = some ⟨pair, .measure n⟩) :
    exec .measureExpiry s = .next (enterPurge pair
      ((s.cfg.measuredChans pair).foldl (fun s c => measureChannel pair c s) s)) := by
  show execMeasureExpiry s = _
  rw [execMeasureExpiry, hcur]

/-- Settles O39: the measured channels' results, then the entering of PURGE, which leaves the drift
records as the results left them. -/
theorem measureExpiryEntersPurge : Obligations.MeasureExpiryEntersPurge := by
  intro s pair n hcur
  obtain ⟨t, ht⟩ : ∃ t, t = enterPurge pair
    ((s.cfg.measuredChans pair).foldl (fun s c => measureChannel pair c s) s) := ⟨_, rfl⟩
  have hchk := enterPurge_measured_chk pair s
  rw [← ht] at hchk
  have hdrift : ∀ c, t.chk.drift.get c = s.driftAfter pair (s.cfg.measuredChans pair) c := by
    intro c; rw [hchk, eight_get_build]
  refine ⟨t, (exec_measureExpiry hcur).trans (congrArg _ ht.symm), ?_, by rw [hchk],
    by rw [State.valve, hchk]; rfl, by rw [hchk], by rw [hchk], fun c => ?_⟩
  · apply State.ext_fields <;> simp [ht]
  · rw [hdrift]
    refine ⟨driftAfter_keeps_locked _ _, driftAfter_unmeasured, fun entry hpath hentry => ?_⟩
    rw [driftAfter_measured hpath hentry]
    refine ⟨driftResult_few entry, fun hwords => ⟨fun kind hkind => ?_, _, _, _, rfl, rfl, rfl, ?_⟩⟩
    · rw [driftResult_get entry kind hwords, if_neg hkind]
    · rw [driftResult_get entry entry.kind hwords, if_pos rfl]
      exact ⟨recordResult_spos .., recordResult_sneg .., recordResult_lock_iff ..⟩

/-! ## The end of a purge (R125, R126) -/

/-- The end of a purge writes the sequencer and the open minute. -/
theorem endPurge_eq (s : State) :
    endPurge s = { s with chk := (endPurge s).chk, port := (endPurge s).port } := by
  apply State.ext_fields <;> simp

theorem exec_purgeTimerExpiry {s : State} {pair : CheckPair} {n ceiling : Nat} {served : Bool}
    (hcur : s.chk.current = some ⟨pair, .purge (some n) ceiling served⟩) :
    exec .purgeTimerExpiry s = if s.ready pair.path then .next (endPurge s) else
      .next { s with chk := { s.chk with current := some ⟨pair, .purge none ceiling true⟩ } } := by
  show execPurgeTimerExpiry s = _
  rw [execPurgeTimerExpiry, hcur]

theorem exec_purgeCeiling {s : State} {pair : CheckPair} {left : Timer} {ceiling : Nat} {served : Bool}
    (hcur : s.chk.current = some ⟨pair, .purge left ceiling served⟩) :
    exec .purgeCeiling s =
      .next (endPurge (submitEvent (purgeCeilingEvent s.checkStamp pair) s)) := by
  show execPurgeCeiling s = _
  rw [execPurgeCeiling, hcur]

/-- Settles O40: the purge timer by the ready input, and the ceiling, whose event touches the archive
alone before the purge ends. -/
theorem purgeEnds : Obligations.PurgeEnds := by
  intro s pair left ceiling served hcur
  refine ⟨fun hleft hready => ?_, fun hleft hready => ?_, ?_⟩
  · obtain ⟨n, rfl⟩ := Option.isSome_iff_exists.mp hleft
    refine ⟨endPurge s, ?_, endPurge_eq s, endPurge_ended s s rfl rfl rfl⟩
    rw [exec_purgeTimerExpiry hcur, if_pos hready]
  · obtain ⟨n, rfl⟩ := Option.isSome_iff_exists.mp hleft
    rw [exec_purgeTimerExpiry hcur, hready]
    rfl
  · refine ⟨_, exec_purgeCeiling hcur, ?_, endPurge_ended s _ (by simp) (by simp) (by simp), ?_⟩
    · apply State.ext_fields <;> simp
    · simp

end Sys2Proof.Machine
end

section
/-! The clearing of a channel's drift records by DRIFT_RESET (spec/07, R128, R129). -/

namespace Sys2Proof.Machine

theorem chanOf_eq_some_iff (n : Nat) (c : Chan) : chanOf n = some c ↔ chanNumber c = n := by
  have hlt := c.isLt
  unfold chanOf chanNumber
  split
  · rw [Option.some_inj, Fin.ext_iff]
    dsimp only
    omega
  · next hrange => exact iff_of_false nofun (by omega)

/-- A number that names no enabled channel is refused first (R128). -/
theorem driftResetOutcome_badArgument {s : State} {n : Nat}
    (h : ∀ c, chanNumber c = n → (s.cfg.chans.get c).enable = false) :
    driftResetOutcome n s = .badArgument := by
  unfold driftResetOutcome
  cases hc : chanOf n with
  | none => rfl
  | some c =>
    have hoff := h c ((chanOf_eq_some_iff n c).mp hc)
    simp only [hoff, Bool.not_false, if_true]

/-- The tests of R128 that follow for an enabled channel. -/
theorem driftResetOutcome_enabled {s : State} {c : Chan}
    (h : (s.cfg.chans.get c).enable = true) :
    driftResetOutcome (chanNumber c) s =
      if s.loader.station ≠ .recording then .notRecording
      else if s.underCheck c = true then .busy else .accepted := by
  have hc := (chanOf_eq_some_iff _ c).mpr rfl
  simp [driftResetOutcome, hc, h, State.recording]

/-- A refusal is the answer alone. -/
theorem handleDriftReset_refused {s : State} {f : RxFrame} {n : Nat} (hn : field f.payload 0 1 = n)
    (h : driftResetOutcome n s ≠ .accepted) :
    handleDriftReset f s = answer 11 f (driftResetOutcome n s) s := by
  unfold handleDriftReset
  dsimp only
  rw [hn]
  split
  · next heq _ => exact absurd heq h
  · rfl

/-- A refusal writes the bus alone. -/
theorem handleDriftReset_refused_eq {s : State} {f : RxFrame} {n : Nat}
    (hn : field f.payload 0 1 = n) (h : driftResetOutcome n s ≠ .accepted) :
    handleDriftReset f s = { s with bus := (handleDriftReset f s).bus } := by
  rw [handleDriftReset_refused hn h]
  rfl

theorem handleDriftReset_accepted {s : State} {f : RxFrame} {c : Chan}
    (hn : field f.payload 0 1 = chanNumber c)
    (h : driftResetOutcome (chanNumber c) s = .accepted) :
    handleDriftReset f s = answer 11 f .accepted (applyDriftReset c s) := by
  have hc := (chanOf_eq_some_iff _ c).mpr rfl
  simp only [handleDriftReset, hn, h, hc]

/-- Either way the reply carries the outcome of R128's table. -/
theorem handleDriftReset_bus {s : State} {f : RxFrame} {n : Nat} (hn : field f.payload 0 1 = n) :
    (handleDriftReset f s).bus = s.bus.submit
      (buildFrame 16 f.source.toNat (replyPayload 11 (driftResetOutcome n s) 0 f.payload)) := by
  by_cases h : driftResetOutcome n s = .accepted
  · obtain ⟨c, hc⟩ : ∃ c, chanOf n = some c := by
      cases hc : chanOf n with
      | none => simp [driftResetOutcome, hc] at h
      | some c => exact ⟨c, rfl⟩
    obtain rfl := (chanOf_eq_some_iff n c).mp hc
    rw [handleDriftReset_accepted hn h, answer_bus, h]
    simp
  · rw [handleDriftReset_refused hn h, answer_bus]

/-- The reset of a channel clears its records and leaves the others' (R129). -/
theorem applyDriftReset_chk (c : Chan) (s : State) :
    (applyDriftReset c s).chk = { s.chk with drift := s.chk.drift.set c DriftPair.reset } := by
  simp [applyDriftReset]

/-- The channel number is the one byte of the payload (R195). -/
theorem field_singleton (n : Byte) : field [n] 0 1 = n.toNat := by
  show 0 * 256 + n.toNat = n.toNat
  omega

theorem exec_driftReset {s : State} {j : Joined} {f : RxFrame} {n : Byte}
    (hj : s.bus.joined = some j) (h0 : f.source ≠ 0) (hs : f.source.toNat ≠ j.number)
    (hd : f.dest ≠ 0) (hn : f.dest.toNat = j.number) (hpay : f.payload = [n])
    (hst : s.loader.station ≠ .halted) : exec (.driftReset f) s = .next (handleDriftReset f s) := by
  show Host.Outcome.next (receive 11 f s) = _
  rw [receive_request hj h0 hs hd hn (by decide) (by rw [hpay]; rfl) (.inl hst)]
  rfl

/-- Settles O41: the request reaches the sequencer, and each row of R128's table gives its answer. -/
theorem driftResetFollowsItsTable : Obligations.DriftResetFollowsItsTable := by
  intro s j f n hj h0 hs hd hn hpay hst
  have hfield : field f.payload 0 1 = n.toNat := by rw [hpay, field_singleton]
  refine ⟨handleDriftReset f s, driftResetOutcome n.toNat s, exec_driftReset hj h0 hs hd hn hpay hst,
    handleDriftReset_bus hfield, fun hoff => ?_, fun c hc hon => ?_⟩
  · have ho := driftResetOutcome_badArgument hoff
    exact ⟨ho, handleDriftReset_refused_eq hfield (by simp [ho])⟩
  · rw [← hc] at hfield ⊢
    have ho := driftResetOutcome_enabled hon
    refine ⟨fun hr => ?_, fun hr hbusy => ?_, fun hr hfree => ?_⟩
    · rw [if_pos hr] at ho
      exact ⟨ho, handleDriftReset_refused_eq hfield (by simp [ho])⟩
    · rw [if_neg (not_not.mpr hr), if_pos hbusy] at ho
      exact ⟨ho, handleDriftReset_refused_eq hfield (by simp [ho])⟩
    · rw [if_neg (not_not.mpr hr), if_neg (by simp [hfree])] at ho
      rw [handleDriftReset_accepted hfield ho]
      have hchk := applyDriftReset_chk c s
      refine ⟨ho, ?_, ?_, ?_, fun d hdc => ?_⟩
      · apply State.ext_fields <;> simp
      · rw [answer_chk, hchk]
      · rw [answer_chk, hchk, eight_get_set, if_pos rfl]
      · rw [answer_chk, hchk, eight_get_set, if_neg hdc]

end Sys2Proof.Machine
end

section
/-! What the archive keeps while it goes on (spec/08, R136 to R146): the bounds of the record queue and
the erase list, and one area OPEN. -/

namespace Sys2Proof.Machine

/-! ## One OPEN area, of the archive alone (R134, R152) -/

/-- The area is OPEN in the table. -/
def Archive.OpenAt (a : Archive) (i : Area) : Prop :=
  ∃ t, a.table = some t ∧ (t.get i).state = .opened

/-- At most one area is OPEN, those of a list aside. -/
def Archive.SingleOpen (a : Archive) (aside : List Area) : Prop :=
  ∀ i j, i ∉ aside → j ∉ aside → a.OpenAt i → a.OpenAt j → i = j

/-- The invariant `State.OneOpen`, which speaks of the archive alone. -/
structure Archive.OneOpen (a : Archive) : Prop where
  one : (∀ got steps, a.mount ≠ .headers got steps) → a.SingleOpen a.todo
  opening : ∀ p i year, a.activity = .programming p → p.purpose = .opening i year →
    a.openArea = none
  closing : ∀ p i todo, a.activity = .programming p → p.purpose = .mountClose i →
    a.mount = .closing todo → todo.head? = some i

theorem State.oneOpen_iff (s : State) : s.OneOpen ↔ s.arch.OneOpen := by
  constructor
  · rintro ⟨hone, hopening, hclosing⟩
    refine ⟨fun hm i j hi hj ⟨t, ht, hopen⟩ ⟨u, hu, kopen⟩ => ?_, hopening, hclosing⟩
    cases ht.symm.trans hu
    exact hone t i j ht hm hi hj hopen kopen
  · rintro ⟨hone, hopening, hclosing⟩
    exact ⟨fun t i j ht hm hi hj hopen kopen => hone hm i j hi hj ⟨t, ht, hopen⟩ ⟨t, ht, kopen⟩,
      hopening, hclosing⟩

theorem mem_allAreas (i : Area) : i ∈ allAreas := by revert i; decide

theorem openArea_eq_none_iff (a : Archive) : a.openArea = none ↔ ∀ i, ¬a.OpenAt i := by
  unfold Archive.openArea Archive.OpenAt
  cases a.table with
  | none => simp
  | some t =>
    simp only [List.find?_eq_none, List.mem_map, beq_iff_eq, Option.some.injEq]
    constructor
    · rintro h i ⟨_, rfl, hopen⟩
      exact h (i, t.get i) ⟨i, mem_allAreas i, rfl⟩ hopen
    · rintro h _ ⟨i, -, rfl⟩ hopen
      exact h i ⟨t, rfl, hopen⟩

theorem openArea_congr {a b : Archive} (h : b.table = a.table) : b.openArea = a.openArea := by
  unfold Archive.openArea; rw [h]

theorem openAt_congr {a b : Archive} (h : b.table = a.table) (i : Area) :
    b.OpenAt i ↔ a.OpenAt i := by
  unfold Archive.OpenAt; rw [h]

/-! ## Going on -/

/-- A program that may start after `a`: none of mount's, and an opening's only with no area OPEN. -/
def Archive.MayStart (a : Archive) : ProgramFor → Prop
  | .mountClose _ => False
  | .opening _ _ => a.openArea = none
  | _ => True

/-- An activity that may follow `a`: the program in flight goes on, or one may start. -/
def Archive.MayFollow (a : Archive) : Activity → Prop
  | .programming p =>
    (∃ q, a.activity = .programming q ∧ q.purpose = p.purpose) ∨ a.MayStart p.purpose
  | _ => True

/-- The archive goes on from `a` to `b`: its table, its erase list and mount stay, the record queue keeps
its bound, and of programs only those start that keep one area OPEN. -/
structure Archive.GoesOn (a b : Archive) : Prop where
  table : b.table = a.table
  erases : b.erases = a.erases
  mount : b.mount = a.mount
  queue : a.queue.length ≤ 16 → b.queue.length ≤ 16
  activity : a.MayFollow b.activity

theorem Archive.mayFollow_self (a : Archive) : a.MayFollow a.activity := by
  unfold Archive.MayFollow
  split
  · exact .inl ⟨_, ‹_›, rfl⟩
  · trivial

namespace Archive.GoesOn

@[simp] theorem refl (a : Archive) : a.GoesOn a := ⟨rfl, rfl, rfl, id, a.mayFollow_self⟩

theorem trans {a b c : Archive} (h : a.GoesOn b) (k : b.GoesOn c) : a.GoesOn c := by
  obtain ⟨htable, herases, hmount, hqueue, hact⟩ := h
  obtain ⟨ktable, kerases, kmount, kqueue, kact⟩ := k
  refine ⟨ktable.trans htable, kerases.trans herases, kmount.trans hmount, kqueue ∘ hqueue, ?_⟩
  have hopen := openArea_congr htable
  cases hc : c.activity with
  | programming p =>
    rw [hc] at kact
    rcases kact with ⟨q, hq, hpurpose⟩ | hstart
    · rw [hq] at hact
      rwa [Archive.MayFollow, hpurpose] at hact
    · right
      revert hstart
      cases p.purpose <;> simp [Archive.MayStart, hopen]
  | _ => trivial

/-- The table, the erase list, mount and the activity stay, and the record queue keeps its bound. -/
theorem of_eq {a b : Archive} (htable : b.table = a.table) (herases : b.erases = a.erases)
    (hmount : b.mount = a.mount) (hact : b.activity = a.activity)
    (hqueue : a.queue.length ≤ 16 → b.queue.length ≤ 16) : a.GoesOn b :=
  ⟨htable, herases, hmount, hqueue, hact ▸ a.mayFollow_self⟩

end Archive.GoesOn

/-! ## Jobs and selections (R136 to R146) -/

theorem enqueue_goesOn (j : Job) (a : Archive) : a.GoesOn (a.enqueue j) :=
  .of_eq (by rw [enqueue_eq]) (by rw [enqueue_eq]) (by rw [enqueue_eq]) (by rw [enqueue_eq])
    (enqueue_length j a)

/-- What a job or a selection never writes stays; the queue and the activity are left to show. -/
theorem Archive.keeps.goesOn {a b : Archive} (h : a.keeps b)
    (hqueue : a.queue.length ≤ 16 → b.queue.length ≤ 16) (hact : a.MayFollow b.activity) :
    a.GoesOn b := by
  obtain ⟨htable, -, herases, -, hmount, -, -⟩ := h
  exact ⟨htable, herases, hmount, hqueue, hact⟩

theorem refuseJob_activity (cal : Option IStamp) (k f : Nat) (st : List Byte) (a : Archive) :
    (refuseJob cal k f st a).activity = a.activity := by
  rw [refuseJob, enqueue_eq]; rfl

theorem takeRecord_follows (cal : Option IStamp) (y : Nat) (k : RecordKind) (i : Nat)
    (d st : List Byte) (a : Archive) : a.MayFollow (takeRecord cal y k i d st a).activity := by
  unfold takeRecord
  repeat' split
  · rw [refuseJob_activity]; exact a.mayFollow_self
  · rw [refuseJob_activity]; exact a.mayFollow_self
  · exact .inr trivial
  · trivial

theorem takeJob_follows (cal : Option IStamp) (j : Job) (a : Archive) :
    a.MayFollow (takeJob cal j a).activity := by
  cases j with
  | interval stamp data => exact takeRecord_follows ..
  | day d data => exact takeRecord_follows ..
  | summary year slot data => exact takeRecord_follows ..
  | event data =>
    show a.MayFollow (takeEvent data a).activity
    unfold takeEvent
    repeat' split
    · exact a.mayFollow_self
    · exact a.mayFollow_self
    · exact .inr trivial
    · trivial
  | yearEnd closing opening =>
    show a.MayFollow (takeYearEnd cal closing opening a).activity
    unfold takeYearEnd
    repeat' split
    · exact a.mayFollow_self
    · exact .inr trivial
    · rw [enqueue_eq]; exact a.mayFollow_self
  | released i => exact .inr trivial

theorem takeJob_goesOn (cal : Option IStamp) (j : Job) (a : Archive) : a.GoesOn (takeJob cal j a) :=
  (takeJob_keeps cal j a).goesOn (takeJob_length cal j a) (takeJob_follows cal j a)

/-- An opening's program starts only with no area OPEN (R134, R146). -/
theorem serveOpening_goesOn (n : Nat) (o : Opening) (a : Archive) :
    a.GoesOn (serveOpening n o a) := by
  unfold serveOpening
  repeat' split
  · exact .of_eq rfl rfl rfl rfl id
  · exact .of_eq rfl rfl rfl rfl id
  · refine ⟨rfl, rfl, rfl, id, .inr ?_⟩
    simpa [Archive.MayStart] using ‹¬a.openArea.isSome = true›

theorem startErase_goesOn (a : Archive) : a.GoesOn (startErase a) := by
  unfold startErase
  repeat' split
  · exact .refl a
  · exact .refl a
  · exact ⟨rfl, rfl, rfl, id, .inr trivial⟩
  · exact ⟨rfl, rfl, rfl, id, trivial⟩

theorem selectWith_goesOn (cal : Option IStamp) (n fuel : Nat) (a : Archive) :
    a.GoesOn (selectWith cal n fuel a) := by
  induction fuel generalizing a with
  | zero => exact .refl a
  | succ fuel ih =>
    unfold selectWith
    repeat' split
    · exact .refl a
    · exact ⟨rfl, rfl, rfl, id, trivial⟩
    · exact (serveOpening_goesOn ..).trans (ih _)
    · exact (takeJob_goesOn ..).trans (ih _)
    · exact startErase_goesOn a
    · exact .refl a
    · exact startErase_goesOn a
    · exact .refl a

/-! ## What the shared operations do to the archive

Each lemma says that an archive that has gone on to the state before goes on to the state after, so that
`simp` finds its way through the operations of a command. -/

section operations
variable {a : Archive} {s : State}

@[simp] theorem select_goesOn (h : a.GoesOn s.arch) : a.GoesOn (select s).arch :=
  h.trans (selectWith_goesOn ..)

@[simp] theorem submitJob_goesOn (j : Job) (h : a.GoesOn s.arch) :
    a.GoesOn (submitJob j s).arch :=
  select_goesOn (s := { s with arch := s.arch.enqueue j }) (h.trans (enqueue_goesOn ..))

@[simp] theorem submitEvent_goesOn (d : List Byte) (h : a.GoesOn s.arch) :
    a.GoesOn (submitEvent d s).arch := submitJob_goesOn _ h

@[simp] theorem submitEvents_goesOn (l : List (List Byte)) (h : a.GoesOn s.arch) :
    a.GoesOn (submitEvents l s).arch := by
  induction l generalizing s with
  | nil => exact h
  | cons d l ih => exact ih (submitEvent_goesOn d h)

@[simp] theorem submitJobs_goesOn (l : List Job) (h : a.GoesOn s.arch) :
    a.GoesOn (submitJobs l s).arch := by
  induction l generalizing s with
  | nil => exact h
  | cons j l ih => exact ih (submitJob_goesOn j h)

theorem serveSuspended_goesOn (er : EraseRun) (a : Archive) : a.GoesOn (serveSuspended er a) := by
  unfold serveSuspended
  split
  · exact .refl a
  · exact ⟨rfl, rfl, rfl, id, trivial⟩

@[simp] theorem requestRead_goesOn (r : ReadReq) (h : a.GoesOn s.arch) :
    a.GoesOn (requestRead r s).arch := by
  have hjoined : a.GoesOn { s.arch with reads := s.arch.reads ++ [r] } :=
    h.trans (.of_eq rfl rfl rfl rfl id)
  unfold requestRead
  dsimp only
  repeat' split
  · exact hjoined.trans (serveSuspended_goesOn ..)
  · exact hjoined
  · exact hjoined.trans (serveSuspended_goesOn ..)
  · exact select_goesOn hjoined

/-! ### Checks -/

@[simp] theorem offerScheduled_goesOn (st : IStamp) (p : Path) (e : ScheduleEntry)
    (h : a.GoesOn s.arch) : a.GoesOn (offerScheduled st p e s).arch := by
  have hoffer := offerCheck_frame p.number e.code s
  unfold offerScheduled
  split
  · split <;> rename_i heq <;> rw [heq] at hoffer <;> simp_all
  · exact h

@[simp] theorem foldSchedule_goesOn (st : IStamp) (p : Path) (l : List ScheduleEntry)
    (h : a.GoesOn s.arch) :
    a.GoesOn (l.foldl (fun s e => offerScheduled st p e s) s).arch := by
  induction l generalizing s with
  | nil => exact h
  | cons e l ih => exact ih (offerScheduled_goesOn st p e h)

@[simp] theorem testSchedules_goesOn (st : IStamp) (h : a.GoesOn s.arch) :
    a.GoesOn (testSchedules st s).arch := foldSchedule_goesOn _ _ _ (foldSchedule_goesOn _ _ _ h)

@[simp] theorem measureChannel_goesOn (p : CheckPair) (c : Chan) (h : a.GoesOn s.arch) :
    a.GoesOn (measureChannel p c s).arch := by
  unfold measureChannel
  dsimp only
  repeat' split
  all_goals simp [h]

@[simp] theorem foldMeasure_goesOn (p : CheckPair) (l : List Chan) (h : a.GoesOn s.arch) :
    a.GoesOn (l.foldl (fun s c => measureChannel p c s) s).arch := by
  induction l generalizing s with
  | nil => exact h
  | cons c l ih => exact ih (measureChannel_goesOn p c h)

@[simp] theorem applyDriftReset_goesOn (c : Chan) (h : a.GoesOn s.arch) :
    a.GoesOn (applyDriftReset c s).arch := submitEvent_goesOn _ h

/-! ### Minutes, intervals and days -/

@[simp] theorem closeYear_goesOn (l : Bool) (y : Nat) (h : a.GoesOn s.arch) :
    a.GoesOn (closeYear l y s).1.arch := by
  exact h.trans (.of_eq rfl rfl rfl rfl id)

@[simp] theorem closeHeldDay_goesOn (h : a.GoesOn s.arch) : a.GoesOn (closeHeldDay s).arch := by
  unfold closeHeldDay
  dsimp only
  repeat' split
  · exact h
  · exact submitJobs_goesOn _ (closeYear_goesOn _ _ (submitJob_goesOn _ h))
  · exact submitJob_goesOn _ h

@[simp] theorem intervalEnd_goesOn (h : a.GoesOn s.arch) : a.GoesOn (intervalEnd s).arch := by
  unfold intervalEnd
  dsimp only
  repeat' split
  all_goals simp [h]

@[simp] theorem resolveHead_goesOn (h : a.GoesOn s.arch) : a.GoesOn (resolveHead s).arch := by
  unfold resolveHead
  dsimp only
  repeat' split
  · exact h
  · exact intervalEnd_goesOn (submitEvents_goesOn _ h)
  · exact submitEvents_goesOn _ h

@[simp] theorem settleWith_goesOn (n : Nat) (h : a.GoesOn s.arch) :
    a.GoesOn (settleWith n s).arch := by
  induction n generalizing s with
  | zero => exact h
  | succ n ih =>
    unfold settleWith
    repeat' split
    · exact h
    · exact ih (resolveHead_goesOn h)
    · exact h

@[simp] theorem settle_goesOn (h : a.GoesOn s.arch) : a.GoesOn (settle s).arch :=
  settleWith_goesOn 3 h

@[simp] theorem forceHead_goesOn (h : a.GoesOn s.arch) : a.GoesOn (forceHead s).arch := by
  unfold forceHead
  split
  · exact settle_goesOn (resolveHead_goesOn h)
  · exact h

@[simp] theorem enterMinute_goesOn (m : MStamp) (st : PlantState) (r : Eight (Option MinuteResult))
    (l : Bool) (h : a.GoesOn s.arch) : a.GoesOn (enterMinute m st r l s).arch := by
  simp [enterMinute, h]

@[simp] theorem endWithoutMinute_goesOn (m : IStamp) (h : a.GoesOn s.arch) :
    a.GoesOn (endWithoutMinute m s).arch := by
  unfold endWithoutMinute; dsimp only; split <;> simp [h]

@[simp] theorem takeEntry_goesOn (n : Nat) (m : MStamp) (e : MinuteEntry) (h : a.GoesOn s.arch) :
    a.GoesOn (takeEntry n m s e).arch := by
  unfold takeEntry; split <;> simp [takeValue, h]

@[simp] theorem foldEntries_goesOn (n : Nat) (m : MStamp) (l : List MinuteEntry)
    (h : a.GoesOn s.arch) : a.GoesOn (l.foldl (takeEntry n m) s).arch := by
  induction l generalizing s with
  | nil => exact h
  | cons e l ih => exact ih (takeEntry_goesOn n m e h)

@[simp] theorem takeMinute_goesOn (n : Nat) (m : MinuteMsg) (h : a.GoesOn s.arch) :
    a.GoesOn (takeMinute n m s).arch := by
  unfold takeMinute; dsimp only; split <;> simp [takePlant, h]

@[simp] theorem closeMinute_goesOn (m : IStamp) (n : Nat) (f l : Bool) (h : a.GoesOn s.arch) :
    a.GoesOn (closeMinute m n f l s).arch := by
  simp [closeMinute, h]

@[simp] theorem closeLastMinute_goesOn (m : IStamp) (n : Nat) (h : a.GoesOn s.arch) :
    a.GoesOn (closeLastMinute m n s).arch := by
  unfold closeLastMinute
  repeat' split
  all_goals simp [h]

@[simp] theorem boundaryMinute_goesOn (n : Nat) (h : a.GoesOn s.arch) :
    a.GoesOn (boundaryMinute n s).arch := by
  unfold boundaryMinute
  repeat' split
  all_goals simp [h]

@[simp] theorem switchCalibration_goesOn (m : IStamp) (h : a.GoesOn s.arch) :
    a.GoesOn (switchCalibration m s).arch := by
  unfold switchCalibration; dsimp only; split <;> simp [h]

@[simp] theorem startInterval_goesOn (m : IStamp) (h : a.GoesOn s.arch) :
    a.GoesOn (startInterval m s).arch := by
  exact testSchedules_goesOn m (switchCalibration_goesOn m h)

@[simp] theorem closeInterval_goesOn (k : CloseKind) (o : Int) (n : Nat) (h : a.GoesOn s.arch) :
    a.GoesOn (closeInterval k o n s).arch := by
  unfold closeInterval closeRecorded closeAligning
  dsimp only
  repeat' split
  all_goals simp [h]

/-! ### Requests and duplicates -/

@[simp] theorem endFetch_goesOn (o : Reply) (ft : FetchState) (h : a.GoesOn s.arch) :
    a.GoesOn (endFetch o ft s).arch :=
  h.trans (.of_eq rfl rfl rfl rfl id)

@[simp] theorem advanceFetch_goesOn (h : a.GoesOn s.arch) : a.GoesOn (advanceFetch s).arch := by
  cases hf : s.arch.fetch with
  | none => simpa [advanceFetch, hf] using h
  | some ft =>
    obtain ⟨-, e⟩ | ⟨-, e⟩ | ⟨-, e⟩ | ⟨-, e⟩ := advanceFetch_cases s ft hf <;> rw [e]
    · exact h
    · exact endFetch_goesOn _ _ h
    · exact endFetch_goesOn _ _ h
    · exact requestRead_goesOn _ (h.trans (.of_eq rfl rfl rfl rfl id))

@[simp] theorem fetchReadDone_goesOn (b : List Byte) (h : a.GoesOn s.arch) :
    a.GoesOn (fetchReadDone b s).arch := by
  unfold fetchReadDone
  dsimp only
  repeat' split
  · exact h
  · exact endFetch_goesOn _ _ h
  · exact advanceFetch_goesOn (h.trans (.of_eq rfl rfl rfl rfl id))

@[simp] theorem handleFetch_goesOn (f : RxFrame) (h : a.GoesOn s.arch) :
    a.GoesOn (handleFetch f s).arch := by
  unfold handleFetch
  dsimp only
  split
  · exact advanceFetch_goesOn (h.trans (.of_eq rfl rfl rfl rfl id))
  · exact h

@[simp] theorem handleDriftReset_goesOn (f : RxFrame) (h : a.GoesOn s.arch) :
    a.GoesOn (handleDriftReset f s).arch := by
  unfold handleDriftReset; dsimp only; split <;> simp [h]

@[simp] theorem disagree_goesOn (k n : Nat) (m : IStamp) (h : a.GoesOn s.arch) :
    a.GoesOn (disagree k n m s).arch := by
  unfold disagree; dsimp only; split <;> simp [h]

@[simp] theorem takeDuplicate_goesOn (k : Byte) (f : RxFrame) (h : a.GoesOn s.arch) :
    a.GoesOn (takeDuplicate k f s).arch := by
  unfold takeDuplicate; dsimp only; split <;> simp [h]

@[simp] theorem endBusFault_goesOn (h : a.GoesOn s.arch) : a.GoesOn (endBusFault s).arch := by
  unfold endBusFault; dsimp only; split <;> simp [h]

/-! ### Resumption (R153 to R155) -/

@[simp] theorem setResume_goesOn (r : Resume) (h : a.GoesOn s.arch) :
    a.GoesOn (setResume r s).arch :=
  h.trans (.of_eq rfl rfl rfl rfl id)

@[simp] theorem resumeRead_goesOn (i : Area) (slot : Nat) (h : a.GoesOn s.arch) :
    a.GoesOn (resumeRead i slot s).arch := requestRead_goesOn _ h

@[simp] theorem haltBehind_goesOn (y : Option Nat) (b : List Byte) (h : a.GoesOn s.arch) :
    a.GoesOn (haltBehind y b s).arch :=
  submitEvent_goesOn _ (h.trans (.of_eq rfl rfl rfl rfl id))

@[simp] theorem finishResume_goesOn (h : a.GoesOn s.arch) : a.GoesOn (finishResume s).arch :=
  select_goesOn (h.trans (.of_eq rfl rfl rfl rfl id))

@[simp] theorem settleDay_goesOn (d : Day) (h : a.GoesOn s.arch) :
    a.GoesOn (settleDay d s).arch := by
  unfold settleDay
  dsimp only
  repeat' split
  all_goals simp [h]

@[simp] theorem drainJobs_goesOn (l : List Job) (h : a.GoesOn s.arch) :
    a.GoesOn (drainJobs l s).2.arch := by
  induction l generalizing s with
  | nil => exact h
  | cons j l ih =>
    unfold drainJobs
    split
    · exact ih (submitJob_goesOn j h)
    · exact h

@[simp] theorem pumpWith_goesOn (n : Nat) (h : a.GoesOn s.arch) :
    a.GoesOn (pumpWith n s).arch := by
  induction n generalizing s with
  | zero => exact h
  | succ n ih =>
    have hdrained (l : List Job) := drainJobs_goesOn l h
    unfold pumpWith
    dsimp only
    repeat' split
    · exact ih (settleDay_goesOn _ (setResume_goesOn _ (hdrained _)))
    · exact finishResume_goesOn (hdrained _)
    · exact setResume_goesOn _ (hdrained _)
    · exact h

@[simp] theorem pump_goesOn (h : a.GoesOn s.arch) : a.GoesOn (pump s).arch := pumpWith_goesOn 3 h

@[simp] theorem dayRead_arch_goesOn (d : Day) (h : a.GoesOn s.arch) : a.GoesOn (dayRead d s).arch := by
  unfold dayRead
  split
  · exact finishResume_goesOn h
  · exact pump_goesOn (setResume_goesOn _ h)

@[simp] theorem beginSettle_goesOn (b : Bool) (h : a.GoesOn s.arch) :
    a.GoesOn (beginSettle b s).arch := by
  unfold beginSettle
  dsimp only
  repeat' split
  · exact pump_goesOn (settleDay_goesOn _ h)
  · exact pump_goesOn (settleDay_goesOn _ h)
  · exact resumeRead_goesOn _ _ (setResume_goesOn _ h)
  · exact h

@[simp] theorem resumeOpen_goesOn (i : Area) (e : AreaEntry) (now : IStamp) (h : a.GoesOn s.arch) :
    a.GoesOn (resumeOpen i e now s).arch := by
  unfold resumeOpen
  dsimp only
  repeat' split
  all_goals simp [h]

theorem makeOpening_goesOn (o : Opening) (a : Archive) : a.GoesOn (a.makeOpening o) := by
  unfold Archive.makeOpening
  split
  · exact .refl a
  · exact .of_eq rfl rfl rfl rfl id

@[simp] theorem resumeClosed_goesOn (t : Areas AreaEntry) (now : IStamp) (h : a.GoesOn s.arch) :
    a.GoesOn (resumeClosed t now s).arch := by
  have hend (o : Opening) (e : Engine) : a.GoesOn
      (finishResume { s with arch := s.arch.makeOpening o, eng := e }).arch :=
    finishResume_goesOn (h.trans (makeOpening_goesOn o _))
  unfold resumeClosed
  dsimp only
  split <;> split
  · exact haltBehind_goesOn _ _ h
  · exact hend ..
  · exact haltBehind_goesOn _ _ h
  · exact hend ..

@[simp] theorem adopt_goesOn (m : IStamp) (n : Nat) (h : a.GoesOn s.arch) :
    a.GoesOn (adopt m n s).arch := by
  have hserved : a.GoesOn { s.arch with service := true } := h.trans (.of_eq rfl rfl rfl rfl id)
  unfold adopt beginResume
  dsimp only
  split
  · exact select_goesOn (resumeOpen_goesOn _ _ _ hserved)
  · exact resumeClosed_goesOn _ _ hserved
  · exact hserved

@[simp] theorem resumeReadDone_goesOn (b : List Byte) (h : a.GoesOn s.arch) :
    a.GoesOn (resumeReadDone b s).arch := by
  have hstored : a.GoesOn (takeStored b s).arch := by simpa using h
  unfold resumeReadDone
  dsimp only
  repeat' split
  · exact haltBehind_goesOn _ _ h
  · exact beginSettle_goesOn _ h
  · exact beginSettle_goesOn _ h
  · exact resumeRead_goesOn _ _ (setResume_goesOn _ h)
  · exact pump_goesOn (settleDay_goesOn _ h)
  · exact resumeRead_goesOn _ _ (setResume_goesOn _ h)
  · exact pump_goesOn (settleDay_goesOn _ h)
  · exact resumeRead_goesOn _ _ (setResume_goesOn _ hstored)
  · exact dayRead_arch_goesOn _ hstored
  · exact h
  · exact h

end operations

end Sys2Proof.Machine
end

section
/-! The form of the archive is kept (spec/08, R134, R136, R142, R152): by what only goes on, and by what
writes the area table, the erase list or mount. -/

namespace Sys2Proof.Machine

/-! ## Keeping the form -/

/-- What happens to the archive from `a` to `b` keeps the bounds of the record queue and of the erase list,
and one area OPEN. -/
structure Archive.KeepsForm (a b : Archive) : Prop where
  queue : a.queue.length ≤ 16 → b.queue.length ≤ 16
  erases : a.erases.length ≤ 3 → b.erases.length ≤ 3
  oneOpen : a.OneOpen → b.OneOpen

theorem Archive.KeepsForm.refl (a : Archive) : a.KeepsForm a := ⟨id, id, id⟩

theorem Archive.KeepsForm.trans {a b c : Archive} (h : a.KeepsForm b) (k : b.KeepsForm c) :
    a.KeepsForm c :=
  ⟨k.queue ∘ h.queue, k.erases ∘ h.erases, k.oneOpen ∘ h.oneOpen⟩

/-- Areas may leave OPEN: with mount where it was and a program in flight that may be, one OPEN area
stays the most there is. -/
theorem Archive.OneOpen.of_openAt {a b : Archive} (h : a.OneOpen)
    (hopen : ∀ i, b.OpenAt i → a.OpenAt i) (hmount : b.mount = a.mount)
    (hact : a.MayFollow b.activity) : b.OneOpen := by
  obtain ⟨hone, hopening, hclosing⟩ := h
  have hnone (ha : a.openArea = none) : b.openArea = none := by
    rw [openArea_eq_none_iff] at *
    exact fun i hi => ha i (hopen i hi)
  refine ⟨fun hm i j hi hj hoi hoj => ?_, fun p i year hp hpurpose => ?_,
    fun p i todo hp hpurpose => ?_⟩
  · have htodo : b.todo = a.todo := by unfold Archive.todo; rw [hmount]
    rw [hmount] at hm
    rw [htodo] at hi hj
    exact hone hm i j hi hj (hopen i hoi) (hopen j hoj)
  · rw [hp] at hact
    rcases hact with ⟨q, hq, hsame⟩ | hstart
    · exact hnone (hopening q i year hq (hsame.trans hpurpose))
    · rw [hpurpose] at hstart
      exact hnone hstart
  · rw [hp] at hact
    rw [hmount]
    rcases hact with ⟨q, hq, hsame⟩ | hstart
    · exact hclosing q i todo hq (hsame.trans hpurpose)
    · rw [hpurpose] at hstart
      exact hstart.elim

theorem Archive.GoesOn.keepsForm {a b : Archive} (h : a.GoesOn b) : a.KeepsForm b where
  queue := h.queue
  erases := by rw [h.erases]; exact id
  oneOpen k := k.of_openAt (fun i => (openAt_congr h.table i).mp) h.mount h.activity

/-- The archive as after reset meets the bounds (R156, R180). -/
theorem keepsForm_reset (a : Archive) : a.KeepsForm Archive.reset where
  queue _ := Nat.zero_le 16
  erases _ := Nat.zero_le 3
  oneOpen _ := by
    refine ⟨?_, fun _ _ _ h => ?_, fun _ _ _ h => ?_⟩
    · rintro - i j - - ⟨_, h, -⟩
      cases h
    · cases h
    · cases h

/-! ## Area entries written (R134) -/

theorem openAt_setArea {a : Archive} {i j : Area} {f : AreaEntry → AreaEntry}
    (hf : ∀ e, (f e).state = .opened → e.state = .opened) (h : (a.setArea i f).OpenAt j) :
    a.OpenAt j := by
  obtain ⟨t, ht, hopen⟩ := h
  obtain ⟨u, hu, rfl⟩ := Option.map_eq_some_iff.mp ht
  refine ⟨u, hu, ?_⟩
  rw [areas_get_modify] at hopen
  split at hopen
  · rename_i hij
    exact hij ▸ hf _ hopen
  · exact hopen

theorem openAt_markClosed {a : Archive} {i j : Area} (h : (a.markClosed i).OpenAt j) :
    a.OpenAt j ∧ j ≠ i := by
  refine ⟨openAt_setArea (fun _ => by nofun) h, ?_⟩
  rintro rfl
  obtain ⟨t, ht, hopen⟩ := h
  obtain ⟨u, -, rfl⟩ := Option.map_eq_some_iff.mp ht
  rw [areas_get_modify, if_pos rfl] at hopen
  cases hopen

theorem openAt_foldl_markClosed {l : List Area} {a : Archive} {j : Area}
    (h : (l.foldl Archive.markClosed a).OpenAt j) : a.OpenAt j ∧ j ∉ l := by
  induction l generalizing a with
  | nil => exact ⟨h, nofun⟩
  | cons i l ih =>
    obtain ⟨hclosed, hl⟩ := ih h
    obtain ⟨hopen, hi⟩ := openAt_markClosed hclosed
    exact ⟨hopen, by simp [hi, hl]⟩

/-- What closing areas leaves: all but the table. -/
theorem foldl_markClosed_eq (l : List Area) (a : Archive) :
    l.foldl Archive.markClosed a = { a with table := (l.foldl Archive.markClosed a).table } := by
  induction l generalizing a with
  | nil => rfl
  | cons i l ih => exact (ih _).trans rfl

/-! ## Mount (R152) -/

/-- Mount has read its headers and has no area left to close. -/
def Mount.Settled : Mount → Prop
  | .headers _ _ => False
  | .closing _ => False
  | _ => True

/-- A turn of mount past its headers and its closings: mount takes a place there, and the archive goes
on. -/
structure Archive.Searches (a b : Archive) : Prop where
  turn : ∃ m : Mount, m.Settled ∧ ({ a with mount := m } : Archive).GoesOn b

/-- No program is in flight. -/
def Archive.NoProgram (a : Archive) : Prop := ∀ p, a.activity ≠ .programming p

theorem Archive.Searches.oneOpen {a b : Archive} (h : a.Searches b) (hone : a.SingleOpen [])
    (hact : a.NoProgram) : b.OneOpen := by
  obtain ⟨m, hm, hgo⟩ := h.turn
  refine hgo.keepsForm.oneOpen ⟨fun _ => ?_, fun p _ _ hp => absurd hp (hact p),
    fun p _ _ hp => absurd hp (hact p)⟩
  have htodo : ({ a with mount := m } : Archive).todo = [] := by
    unfold Archive.todo; revert hm; cases m <;> simp [Mount.Settled]
  rw [htodo]
  exact hone

theorem Archive.Searches.keepsForm {a b : Archive} (h : a.Searches b) (hm : a.mount.Settled)
    (hact : a.NoProgram) : a.KeepsForm b := by
  have hgo := h
  obtain ⟨m, -, ⟨-, herases, -, hqueue, -⟩⟩ := h.turn
  refine ⟨hqueue, by rw [herases]; exact id, fun k => hgo.oneOpen ?_ hact⟩
  have htodo : a.todo = [] := by
    unfold Archive.todo; revert hm; cases a.mount <;> simp [Mount.Settled]
  rw [← htodo]
  exact k.one fun got steps e => by rw [e] at hm; exact hm

theorem mountRead_searches {m : Mount} (hm : m.Settled) (i : Area) (k : RecordKind) (slot : Nat)
    (s : State) : s.arch.Searches (mountRead i k slot (setMount m s)).arch :=
  ⟨m, hm, requestRead_goesOn _ (.refl _)⟩

theorem searchEvents_searches (i : Area) (lo hi : Nat) (s : State) :
    s.arch.Searches (searchEvents i lo hi s).arch := by
  unfold searchEvents
  split
  · exact mountRead_searches (by trivial) ..
  · exact ⟨.days 365, trivial, requestRead_goesOn _ (.of_eq rfl rfl rfl rfl id)⟩

theorem completeMount_searches (s : State) : s.arch.Searches (completeMount s).arch :=
  ⟨.off, trivial, select_goesOn (.of_eq rfl rfl rfl rfl id)⟩

theorem beginSearch_searches (s : State) : s.arch.Searches (beginSearch s).arch := by
  unfold beginSearch
  split
  · exact searchEvents_searches ..
  · exact completeMount_searches s

/-- Mount goes on to its closings with one area OPEN beside those it has still to close. -/
theorem closeExtra_oneOpen {todo : List Area} {s : State} (hone : s.arch.SingleOpen todo)
    (hact : s.arch.NoProgram) : (closeExtra todo s).arch.OneOpen := by
  cases todo with
  | nil => exact (beginSearch_searches s).oneOpen hone hact
  | cons i todo =>
    refine ⟨fun _ => hone, fun p _ _ hp hpurpose => ?_, fun p j l hp hpurpose hm => ?_⟩
    · cases hp; cases hpurpose
    · cases hp; cases hpurpose; cases hm; rfl

theorem closeExtra_queue (todo : List Area) {s : State} (h : s.arch.queue.length ≤ 16) :
    (closeExtra todo s).arch.queue.length ≤ 16 := by
  cases todo with
  | nil =>
    obtain ⟨m, -, hgo⟩ := (beginSearch_searches s).turn
    exact hgo.queue h
  | cons i todo => exact h

/-- Of the OPEN areas of a table mount keeps one and closes the others. -/
theorem keptArea_of_notMem_extraOpen {t : Areas AreaEntry} {i : Area} (hi : i ∉ extraOpen t)
    (hopen : (t.get i).state = .opened) : keptArea t = some i := by
  by_contra hne
  exact hi (List.mem_filter.mpr ⟨mem_allAreas i, by simp [hopen, hne]⟩)

/-- A read of mount keeps the form: the fourth header fills the table, with the areas to close aside. -/
theorem mountReadDone_keepsForm (req : ReadReq) {s : State} (hact : s.arch.NoProgram) :
    s.arch.KeepsForm (mountReadDone req s).arch := by
  unfold mountReadDone
  dsimp only
  split
  · split
    · exact ⟨id, id, fun _ => ⟨fun hm => absurd rfl (hm _ _), fun p _ _ hp => absurd hp (hact p),
        fun p _ _ hp => absurd hp (hact p)⟩⟩
    · refine ⟨fun h => closeExtra_queue _ h, fun _ => ?_, fun _ => closeExtra_oneOpen ?_ hact⟩
      · rw [(closeExtra_lists _ _).2]
        exact List.length_take_le 3 _
      · rintro i j hi hj ⟨_, ht, hopen⟩ ⟨_, hu, kopen⟩
        cases ht
        cases hu
        exact Option.some.inj ((keptArea_of_notMem_extraOpen hi hopen).symm.trans
          (keptArea_of_notMem_extraOpen hj kopen))
  · rename_i hm
    have hsettled : s.arch.mount.Settled := by rw [hm]; trivial
    repeat' split
    · exact (searchEvents_searches ..).keepsForm hsettled hact
    · exact (searchEvents_searches ..).keepsForm hsettled hact
    · exact .refl _
  · rename_i hm
    have hsettled : s.arch.mount.Settled := by rw [hm]; trivial
    repeat' split
    · refine .trans ?_ ((completeMount_searches _).keepsForm ?_ ?_)
      · exact Archive.GoesOn.keepsForm ⟨rfl, rfl, rfl, id, s.arch.mayFollow_self⟩
      · exact hsettled
      · exact hact
    · exact (completeMount_searches s).keepsForm hsettled hact
    · exact (mountRead_searches (by trivial) ..).keepsForm hsettled hact
    · exact .refl _
  · exact .refl _

/-- The CLOSED marker of the area mount closes next takes it off those still to close. -/
theorem extraClosed_keepsForm {i : Area} {s : State} {a : Archive}
    (ha : s.arch = { a with activity := .idle })
    (hnext : ∀ todo, a.OneOpen → a.mount = .closing todo → todo.head? = some i) :
    a.KeepsForm (extraClosed i s).arch := by
  have hidle : a.KeepsForm s.arch :=
    (Archive.GoesOn.mk (by rw [ha]) (by rw [ha]) (by rw [ha]) (by rw [ha]; exact id)
      (by rw [ha]; trivial)).keepsForm
  have hact : s.arch.NoProgram := fun p hp => by rw [ha] at hp; cases hp
  have hmount : s.arch.mount = a.mount := by rw [ha]
  unfold extraClosed
  split
  · rename_i todo hm
    refine ⟨fun h => closeExtra_queue _ (hidle.queue h), ?_, fun h => closeExtra_oneOpen ?_ hact⟩
    · rw [(closeExtra_lists _ _).2]
      exact hidle.erases
    · have hhead := hnext todo h (hmount.symm.trans hm)
      obtain ⟨rest, rfl⟩ : ∃ rest, todo = i :: rest := by
        cases todo with
        | nil => cases hhead
        | cons j rest => cases hhead; exact ⟨rest, rfl⟩
      intro j k hj hk hopen kopen
      obtain ⟨hopen, hji⟩ := openAt_markClosed hopen
      obtain ⟨kopen, hki⟩ := openAt_markClosed kopen
      have htodo : s.arch.todo = i :: rest := by unfold Archive.todo; rw [hm]
      refine (hidle.oneOpen h).one (by rw [hm]; nofun) j k ?_ ?_ hopen kopen
      · rw [htodo]; simpa [hji] using hj
      · rw [htodo]; simpa [hki] using hk
  · exact hidle

/-- With all extra areas closed mount goes on with the one it keeps. -/
theorem extraFailed_keepsForm {s : State} (hact : s.arch.NoProgram) :
    s.arch.KeepsForm (extraFailed s).arch := by
  unfold extraFailed
  split
  · rename_i todo hm
    have heq := foldl_markClosed_eq todo s.arch
    have hsearch := beginSearch_searches { s with arch := todo.foldl Archive.markClosed s.arch }
    obtain ⟨m, -, ⟨-, herases, -, hqueue, -⟩⟩ := hsearch.turn
    refine ⟨fun h => hqueue ?_, fun h => ?_, fun h => hsearch.oneOpen ?_ ?_⟩
    · show (todo.foldl Archive.markClosed s.arch).queue.length ≤ 16
      rw [heq]; exact h
    · rw [herases]
      show (todo.foldl Archive.markClosed s.arch).erases.length ≤ 3
      rw [heq]; exact h
    · intro i j _ _ hopen kopen
      obtain ⟨hopen, hi⟩ := openAt_foldl_markClosed hopen
      obtain ⟨kopen, hj⟩ := openAt_foldl_markClosed kopen
      have htodo : s.arch.todo = todo := by unfold Archive.todo; rw [hm]
      exact h.one (by rw [hm]; nofun) i j (htodo ▸ hi) (htodo ▸ hj) hopen kopen
    · intro p hp
      rw [heq] at hp
      exact hact p hp
  · exact .refl _

/-! ## Programs and erases that end (R139 to R147) -/

theorem eraseStep_keepsForm (step : Nat) (a : Archive) : a.KeepsForm (a.eraseStep step) := by
  unfold Archive.eraseStep
  split
  · exact .refl a
  · rename_i he
    exact ⟨id, by rw [he]; exact id, fun h => h.of_openAt (fun _ => id) rfl a.mayFollow_self⟩

/-- An area that is not written OPEN, with the lists within their bounds. -/
theorem setArea_keepsForm {a b : Archive} {i : Area} {f : AreaEntry → AreaEntry}
    (hf : ∀ e, (f e).state = .opened → e.state = .opened)
    (htable : b.table = (a.setArea i f).table) (hmount : b.mount = a.mount)
    (hact : b.activity = .idle) (hqueue : b.queue.length ≤ a.queue.length)
    (herases : b.erases.length ≤ a.erases.length) : a.KeepsForm b where
  queue h := hqueue.trans h
  erases h := herases.trans h
  oneOpen h := h.of_openAt (fun j hj => openAt_setArea hf ((openAt_congr htable j).mp hj)) hmount
    (by rw [hact]; trivial)

/-- The area of an opening becomes the one OPEN area. -/
theorem opened_keepsForm {a : Archive} {i : Area} (year station : Nat)
    (hnone : a.OneOpen → a.openArea = none) :
    a.KeepsForm (({ a with activity := .idle } : Archive).opened i year station) where
  queue := id
  erases := id
  oneOpen h := by
    have honly {j : Area}
        (hj : (({ a with activity := .idle } : Archive).opened i year station).OpenAt j) :
        j = i := by
      obtain ⟨t, ht, hopen⟩ := hj
      obtain ⟨u, hu, rfl⟩ := Option.map_eq_some_iff.mp ht
      rw [areas_get_modify] at hopen
      by_contra hne
      rw [if_neg hne] at hopen
      exact (openArea_eq_none_iff a).mp (hnone h) j ⟨u, hu, hopen⟩
    exact ⟨fun _ j k _ _ hj hk => (honly hj).trans (honly hk).symm, nofun, nofun⟩

/-- What a program was for comes about: the form is kept. -/
theorem programmed_keepsForm {s : State} {p : Program} {m : List Host.Cell}
    (ha : s.arch.activity = .programming p) :
    s.arch.KeepsForm (programmed p.purpose
      { s with flash := m, arch := { s.arch with activity := .idle } }).arch := by
  have htail : s.arch.queue.tail.length ≤ s.arch.queue.length := by simp
  unfold programmed
  split
  · have hgo : s.arch.GoesOn ({ s.arch with activity := .idle } : Archive).popJob :=
      ⟨rfl, rfl, rfl, htail.trans, trivial⟩
    exact hgo.keepsForm
  · refine Archive.KeepsForm.trans ?_ (makeOpening_goesOn ..).keepsForm
    exact setArea_keepsForm (fun _ => by nofun) rfl rfl rfl htail le_rfl
  · exact setArea_keepsForm (fun _ => by nofun) rfl rfl rfl htail le_rfl
  · exact opened_keepsForm _ _ fun h => h.opening p _ _ ha ‹_›
  · refine Archive.KeepsForm.trans ?_ (eraseStep_keepsForm 2 _)
    exact setArea_keepsForm (fun _ => by nofun) rfl rfl rfl le_rfl le_rfl
  · exact extraClosed_keepsForm rfl fun todo h hm => h.closing p _ todo ha ‹_› hm

theorem openWanted_goesOn (i : Area) (cal : Option IStamp) (a : Archive) :
    a.GoesOn (openWanted i cal a) := by
  unfold openWanted
  repeat' split
  · exact makeOpening_goesOn ..
  · exact .refl a
  · exact .refl a

theorem eraseDone_keepsForm (er : EraseRun) (s : State) :
    s.arch.KeepsForm (eraseDone er s).arch := by
  unfold eraseDone
  dsimp only
  split
  · have hidle : s.arch.GoesOn { s.arch with activity := .idle } :=
      ⟨rfl, rfl, rfl, id, trivial⟩
    exact hidle.keepsForm.trans (eraseStep_keepsForm _ _)
  · refine Archive.KeepsForm.trans ?_ (openWanted_goesOn ..).keepsForm
    refine setArea_keepsForm (fun _ => ?_) rfl rfl rfl le_rfl ?_
    · nofun
    · simp [Archive.setArea]

/-! ## FAULT and RELEASE (R144, R147) -/

theorem archiveFault_arch (s : State) : (archiveFault s).arch =
    { s.arch.addDropped (s.arch.queue.countP Job.isRecord) with
      condition := .fault, queue := [], jobFound := false, opening := none, wanted := none,
      activity := .idle } := by
  simp [archiveFault]

theorem archiveFault_goesOn (s : State) : s.arch.GoesOn (archiveFault s).arch := by
  rw [archiveFault_arch]
  exact ⟨rfl, rfl, rfl, fun _ => Nat.zero_le 16, trivial⟩

/-- A RELEASE that is accepted found room on both lists. -/
theorem releaseOutcome_eq_accepted {year : Nat} {a : Archive}
    (h : releaseOutcome year a = .accepted) : a.erases.length < 3 ∧ a.queue.length < 16 := by
  unfold releaseOutcome at h
  repeat' split at h
  all_goals cases h
  exact ⟨by omega, by omega⟩

theorem release_keepsForm {i : Area} {a : Archive} (herases : a.erases.length < 3)
    (hqueue : a.queue.length < 16) : a.KeepsForm (a.release i) where
  queue _ := by simp [Archive.release, Archive.setArea]; omega
  erases _ := by simp [Archive.release, Archive.setArea]; omega
  oneOpen h := h.of_openAt (fun _ => openAt_setArea fun _ => id) rfl a.mayFollow_self

theorem handleRelease_keepsForm (f : RxFrame) (s : State) :
    s.arch.KeepsForm (handleRelease f s).arch := by
  unfold handleRelease
  dsimp only
  split
  · rename_i i _ ho _
    obtain ⟨herases, hqueue⟩ := releaseOutcome_eq_accepted ho
    refine (release_keepsForm (i := i) herases hqueue).trans ?_
    exact (selectWith_goesOn ..).keepsForm
  · exact .refl _

end Sys2Proof.Machine
end

section
/-! Every command and every step keeps the canonical form of the flash (spec/08, R132, R133, R197) and the
form of the archive (R134, R136, R142, R152). -/

namespace Sys2Proof.Machine

/-! ## Keeping the store -/

/-- What happens from `s` to `t` keeps the form of the flash and of the archive. -/
structure State.KeepsStore (s t : State) : Prop where
  flash : s.flashOk → t.flashOk
  arch : s.arch.KeepsForm t.arch

theorem State.KeepsStore.refl (s : State) : s.KeepsStore s := ⟨id, .refl _⟩

theorem State.KeepsStore.trans {s t u : State} (h : s.KeepsStore t) (k : t.KeepsStore u) :
    s.KeepsStore u :=
  ⟨k.flash ∘ h.flash, h.arch.trans k.arch⟩

/-- The flash stays and the archive goes on. -/
structure State.Rests (s t : State) : Prop where
  flash : t.flash = s.flash
  arch : s.arch.GoesOn t.arch

theorem State.flashOk_congr {s t : State} (h : t.flash = s.flash) : s.flashOk → t.flashOk := by
  unfold State.flashOk; rw [h]; exact id

theorem State.Rests.keeps {s t : State} (h : s.Rests t) : s.KeepsStore t :=
  ⟨State.flashOk_congr h.flash, h.arch.keepsForm⟩

theorem State.Rests.refl (s : State) : s.Rests s := ⟨rfl, .refl _⟩

/-- A selection after what keeps the store. -/
theorem State.KeepsStore.then_select {s t : State} (h : s.KeepsStore t) : s.KeepsStore (select t) :=
  h.trans (State.Rests.keeps ⟨rfl, select_goesOn (.refl _)⟩)

/-- Whatever next state an outcome gives, the store is kept. -/
structure State.Stores (s : State) (o : Host.Outcome State Fault Refusal) : Prop where
  kept : ∀ t, o = .next t → s.KeepsStore t

namespace State.Stores

theorem next {s t : State} (h : s.KeepsStore t) : s.Stores (.next t) := by
  refine ⟨fun u e => ?_⟩
  injection e with e
  exact e ▸ h

theorem rests {s t : State} (h : s.Rests t) : s.Stores (.next t) := next h.keeps

theorem idle (s : State) : s.Stores (.next s) := next (.refl s)

theorem fault (s : State) (f : Fault) : s.Stores (.fault f) :=
  ⟨fun _ e => by injection e⟩

end State.Stores

/-! ## Resets and loading (R180, R182, R191) -/

/-- Both forms of the reset cut off the operation in flight and leave the archive as after reset. -/
theorem holdReset_keepsStore (s : State) : s.KeepsStore (holdReset s) :=
  ⟨cutFlash_wf true s, keepsForm_reset _⟩

theorem restartReset_keepsStore (s : State) : s.KeepsStore (restartReset s) :=
  ⟨cutFlash_wf true s, keepsForm_reset _⟩

/-- Mount begins with its headers to read, before any area counts as OPEN. -/
theorem beginMount_keepsForm (s : State) : s.arch.KeepsForm (beginMount s).arch := by
  refine Archive.KeepsForm.trans (b := { s.arch with mount := .headers [] [], reads := headerReads })
    ?_ (selectWith_goesOn ..).keepsForm
  exact ⟨id, id, fun h => ⟨fun hm => absurd rfl (hm _ _), h.opening, nofun⟩⟩

theorem acceptImage_keepsStore (img : Image) (s : State) : s.KeepsStore (acceptImage img s) :=
  ⟨State.flashOk_congr (by simp [acceptImage]), beginMount_keepsForm { s with
      loader := _, bus := _, filter := _, exch := _ }⟩

theorem headerRead_rests (head : List Byte) (s : State) : s.Rests (headerRead head s) := by
  unfold headerRead
  split
  · exact ⟨rfl, .refl _⟩
  · exact ⟨rfl, .refl _⟩

theorem imageRead_keepsStore (head image : List Byte) (s : State) :
    s.KeepsStore (imageRead head image s) := by
  unfold imageRead
  split
  · exact State.Rests.keeps ⟨rfl, .refl _⟩
  · exact acceptImage_keepsStore ..

theorem endEepromRead_keepsStore {s : State} (ack : Bool) (bytes : List Byte) (len : Nat)
    {use : State → State} (hu : s.KeepsStore (use s)) :
    s.KeepsStore (endEepromRead ack bytes len use s) := by
  unfold endEepromRead
  repeat' split
  · exact State.Rests.keeps ⟨rfl, .refl _⟩
  · exact hu
  · exact .refl s

theorem execEepromReadDone_stores (ack : Bool) (bytes : List Byte) (s : State) :
    s.Stores (execEepromReadDone ack bytes s) := by
  unfold execEepromReadDone
  split
  · exact .next (endEepromRead_keepsStore _ _ _ (headerRead_rests ..).keeps)
  · exact .next (endEepromRead_keepsStore _ _ _ (imageRead_keepsStore ..))
  · exact .idle s

theorem execResetPeriodEnd_stores (s : State) : s.Stores (execResetPeriodEnd s) := by
  unfold execResetPeriodEnd
  split
  · exact .rests ⟨rfl, .refl _⟩
  · exact .idle s

/-! ## Samples, status inputs and minutes -/

theorem execSampleWord_stores (w : BitVec 24) (s : State) : s.Stores (execSampleWord w s) := by
  unfold execSampleWord
  split
  · cases hcheck : s.underCheck (wordChannel w) with
    | false => rw [takeWord_accumulated _ _ hcheck]; exact .rests ⟨rfl, .refl _⟩
    | true => rw [takeWord_excluded _ _ hcheck]; exact .rests ⟨rfl, .refl _⟩
  · exact .idle s

theorem execStatusInputEdge_stores (i : StatusInput) (level : Bool) (s : State) :
    s.Stores (execStatusInputEdge i level s) := by
  unfold execStatusInputEdge filterEdge
  dsimp only
  repeat' split
  all_goals exact .rests ⟨by simp, by simp⟩

theorem execFilterTimerExpiry_stores (i : StatusInput) (s : State) :
    s.Stores (execFilterTimerExpiry i s) := by
  unfold execFilterTimerExpiry
  split
  · exact .rests ⟨by simp, by simp⟩
  · exact .idle s

theorem execMinuteBoundary_stores (s : State) : s.Stores (execMinuteBoundary s) := by
  unfold execMinuteBoundary
  repeat' split
  · exact .rests ⟨by simp, by simp⟩
  · exact .idle s
  · exact .idle s

theorem execMinuteDeadlineExpiry_stores (place : Nat) (s : State) :
    s.Stores (execMinuteDeadlineExpiry place s) := by
  unfold execMinuteDeadlineExpiry
  repeat' split
  · exact .rests ⟨by simp, by simp⟩
  · exact .idle s
  · exact .idle s

/-! ## The Mark Unit -/

theorem execOwnExpiry_stores (s : State) : s.Stores (execOwnExpiry s) := by
  unfold execOwnExpiry
  split
  · exact .rests ⟨by simp, by simp⟩
  · exact .idle s

theorem actEdge_rests (clock : Nat) (s : State) : s.Rests (actEdge clock s) := by
  have haccept (kind : CloseKind) : s.Rests (acceptEdge kind clock s) :=
    ⟨by simp [acceptEdge], closeInterval_goesOn _ _ _ (.refl _)⟩
  unfold actEdge
  repeat' split
  · exact haccept _
  · exact haccept _
  · exact haccept _
  · exact ⟨rfl, .refl _⟩
  · exact .refl s

theorem execLowCheckExpiry_stores (s : State) : s.Stores (execLowCheckExpiry s) := by
  unfold execLowCheckExpiry
  dsimp only
  repeat' split
  · obtain ⟨hflash, harch⟩ := actEdge_rests ‹_› { s with mark := { s.mark with lowCheck := none } }
    exact .rests ⟨hflash, harch⟩
  · exact .rests ⟨rfl, .refl _⟩
  · exact .rests ⟨rfl, .refl _⟩
  · exact .idle s

theorem execMarkFall_stores (s : State) : s.Stores (execMarkFall s) := by
  unfold execMarkFall
  dsimp only
  repeat' split
  all_goals exact .rests ⟨rfl, .refl _⟩

theorem execMarkRise_stores (s : State) : s.Stores (execMarkRise s) := by
  unfold execMarkRise
  dsimp only
  repeat' split
  all_goals exact .rests ⟨rfl, .refl _⟩

theorem execMarkStuck_stores (s : State) : s.Stores (execMarkStuck s) := by
  unfold execMarkStuck
  split
  · exact .rests ⟨by simp, by simp⟩
  · exact .idle s

theorem execMarkNormal_stores (s : State) : s.Stores (execMarkNormal s) := by
  unfold execMarkNormal
  split
  · exact .rests ⟨by simp, by simp⟩
  · exact .idle s

/-! ## Checks -/

theorem execSettleExpiry_stores (s : State) : s.Stores (execSettleExpiry s) := by
  unfold execSettleExpiry
  split
  · exact .rests ⟨rfl, .refl _⟩
  · exact .idle s

theorem execMeasureExpiry_stores (s : State) : s.Stores (execMeasureExpiry s) := by
  unfold execMeasureExpiry
  split
  · exact .rests ⟨by simp, by simp⟩
  · exact .idle s

theorem execPurgeTimerExpiry_stores (s : State) : s.Stores (execPurgeTimerExpiry s) := by
  unfold execPurgeTimerExpiry
  repeat' split
  · exact .rests ⟨by simp, by simp⟩
  · exact .rests ⟨rfl, .refl _⟩
  · exact .idle s

theorem execPurgeCeiling_stores (s : State) : s.Stores (execPurgeCeiling s) := by
  unfold execPurgeCeiling
  split
  · exact .rests ⟨by simp, by simp⟩
  · exact .idle s

/-! ## The receive path and the attempts -/

theorem serveRequest_keepsStore (kind : Nat) (f : RxFrame) (s : State) :
    s.KeepsStore (serveRequest kind f s) := by
  unfold serveRequest
  split
  · exact State.Rests.keeps ⟨by simp, by simp⟩
  · exact State.Rests.keeps ⟨by simp, by simp⟩
  · exact State.Rests.keeps ⟨by simp, by simp⟩
  · exact ⟨State.flashOk_congr (by simp), handleRelease_keepsForm f s⟩
  · exact State.Rests.keeps ⟨rfl, .refl _⟩
  · exact State.Rests.keeps ⟨by simp, by simp⟩
  · exact .refl s

theorem handleMinute_rests (f : RxFrame) (s : State) : s.Rests (handleMinute f s) := by
  unfold handleMinute
  repeat' split
  · exact ⟨by simp, by simp⟩
  · exact ⟨rfl, .refl _⟩
  · exact .refl s

theorem handleSummary_rests (f : RxFrame) (s : State) : s.Rests (handleSummary f s) := by
  refine ⟨by simp, ?_⟩
  unfold handleSummary
  dsimp only
  repeat' split
  all_goals simp

theorem handleTime_rests (f : RxFrame) (s : State) : s.Rests (handleTime f s) := by
  refine ⟨by simp, ?_⟩
  unfold handleTime
  dsimp only
  repeat' split
  all_goals simp

theorem dispatch_keepsStore (kind : Nat) (f : RxFrame) (s : State) :
    s.KeepsStore (dispatch kind f s) := by
  have hanswer (r : Reply) : s.KeepsStore (answer kind f r s) :=
    State.Rests.keeps ⟨rfl, .refl _⟩
  unfold dispatch dispatchBroadcast handleRequest
  repeat' split
  · exact State.Rests.keeps ⟨rfl, .refl _⟩
  · exact (handleMinute_rests f s).keeps
  · exact .refl s
  · exact (handleSummary_rests f s).keeps
  · exact (handleTime_rests f s).keeps
  · exact .refl s
  · exact .refl s
  · exact .refl s
  · exact hanswer _
  · exact hanswer _
  · exact hanswer _
  · exact serveRequest_keepsStore kind f s
  · exact .refl s

theorem receive_keepsStore (kind : Byte) (f : RxFrame) (s : State) :
    s.KeepsStore (receive kind f s) := by
  unfold receive
  repeat' split
  · exact .refl s
  · exact State.Rests.keeps ⟨rfl, .refl _⟩
  · exact State.Rests.keeps ⟨by simp, by simp⟩
  · exact dispatch_keepsStore kind.toNat f s

theorem execBadFrame_stores (line : List Byte) (s : State) : s.Stores (execBadFrame line s) := by
  unfold execBadFrame
  repeat' split
  · exact .next (receive_keepsStore ..)
  · exact .rests ⟨rfl, .refl _⟩
  · exact .idle s

theorem execMediumIdle_stores (s : State) : s.Stores (execMediumIdle s) := by
  unfold execMediumIdle
  split <;> exact .rests ⟨rfl, .refl _⟩

theorem execContentionLost_stores (s : State) : s.Stores (execContentionLost s) := by
  unfold execContentionLost
  split <;> exact .rests ⟨rfl, .refl _⟩

theorem execAttemptSuccess_stores (s : State) : s.Stores (execAttemptSuccess s) := by
  unfold execAttemptSuccess
  dsimp only
  split
  · exact .idle s
  · have hsent : s.KeepsStore (endBusFault (setBus s.bus.dropInFlight s)) :=
      State.Rests.keeps ⟨by simp, endBusFault_goesOn (.refl _)⟩
    have htaken := fun k f => hsent.trans (dispatch_keepsStore k f _)
    split
    · exact .next ((htaken _ _).trans (restartReset_keepsStore _))
    · exact .next (htaken _ _)

theorem execAttemptFailure_stores (s : State) : s.Stores (execAttemptFailure s) := by
  unfold execAttemptFailure
  dsimp only
  repeat' split
  · exact .idle s
  · exact .rests ⟨by simp, by simp⟩
  · exact .rests ⟨rfl, .refl _⟩

theorem execMinuteFrameStale_stores (s : State) : s.Stores (execMinuteFrameStale s) := by
  unfold execMinuteFrameStale
  repeat' split
  all_goals exact .rests ⟨rfl, .refl _⟩

theorem execRestartTimerExpiry_stores (s : State) : s.Stores (execRestartTimerExpiry s) := by
  unfold execRestartTimerExpiry
  split
  · exact .next (restartReset_keepsStore s)
  · exact .idle s

/-! ## The flash line (R138 to R146) -/

/-- The end of a read leaves no program in flight. -/
theorem endRead_goesOn (holdoff : Nat) (a : Archive) :
    a.GoesOn (endRead holdoff a) ∧ (endRead holdoff a).NoProgram := by
  unfold endRead
  repeat' split
  · exact ⟨⟨rfl, rfl, rfl, id, trivial⟩, nofun⟩
  · exact ⟨⟨rfl, rfl, rfl, id, trivial⟩, nofun⟩
  · exact ⟨⟨rfl, rfl, rfl, id, trivial⟩, nofun⟩

theorem jobReadDone_goesOn (cal : Option IStamp) (bytes : List Byte) (a : Archive) :
    a.GoesOn (jobReadDone cal bytes a) := by
  unfold jobReadDone
  repeat' split
  · exact .of_eq rfl rfl rfl rfl id
  · exact .refl a
  · exact (refuseJob_keeps ..).goesOn (refuseJob_length _ _ _ _ _)
      (by rw [refuseJob_activity]; exact a.mayFollow_self)
  · exact .of_eq rfl rfl rfl rfl id

theorem readDone_keepsStore (req : ReadReq) {s : State} (hact : s.arch.NoProgram) :
    s.KeepsStore (readDone req s) := by
  unfold readDone
  dsimp only
  split
  · exact State.Rests.keeps ⟨by simp, by simp⟩
  · exact .refl s
  · exact ⟨State.flashOk_congr (by simp), mountReadDone_keepsForm req hact⟩
  · exact State.Rests.keeps ⟨by simp, by simp⟩
  · exact State.Rests.keeps ⟨rfl, jobReadDone_goesOn ..⟩

theorem execFlashReadDone_stores (s : State) : s.Stores (execFlashReadDone s) := by
  unfold execFlashReadDone
  repeat' split
  · exact .idle s
  · obtain ⟨hgo, hact⟩ := endRead_goesOn s.cfg.station.holdoff s.arch
    have hend : s.KeepsStore { s with arch := endRead s.cfg.station.holdoff s.arch } :=
      State.Rests.keeps ⟨rfl, hgo⟩
    exact .next (hend.trans (readDone_keepsStore _ hact)).then_select
  · exact .fault ..

/-- Entering FAULT cuts off the operation in flight. -/
theorem archiveFault_keepsStore (s : State) : s.KeepsStore (archiveFault s) :=
  ⟨cutFlash_wf false s, (archiveFault_goesOn s).keepsForm⟩

theorem programFailed_keepsStore (purpose : ProgramFor) (s : State) :
    s.KeepsStore (programFailed purpose s) := by
  unfold programFailed
  split
  · refine ((archiveFault_keepsStore s).trans ⟨?_, extraFailed_keepsForm ?_⟩).then_select
    · exact State.flashOk_congr (by simp)
    · rw [archiveFault_arch]
      exact fun p hp => nomatch hp
  · exact (archiveFault_keepsStore s).then_select

theorem execFlashProgramDone_stores (ok : Bool) (s : State) :
    s.Stores (execFlashProgramDone ok s) := by
  unfold execFlashProgramDone
  repeat' split
  · exact .fault ..
  · rename_i ha _ _
    refine .next (State.KeepsStore.then_select ⟨fun h => ?_, programmed_keepsForm ha⟩)
    simpa [State.flashOk] using flashWriteBytes_wf _ _ h
  · exact .next (programFailed_keepsStore ..)
  · exact .idle s

theorem execProgramTimeout_stores (s : State) : s.Stores (execProgramTimeout s) := by
  unfold execProgramTimeout
  repeat' split
  · exact .next (programFailed_keepsStore ..)
  · exact .fault ..
  · exact .idle s

theorem execFlashEraseDone_stores (ok : Bool) (s : State) :
    s.Stores (execFlashEraseDone ok s) := by
  unfold execFlashEraseDone
  repeat' split
  · exact .fault ..
  · rename_i er _ _ _
    refine .next (State.KeepsStore.then_select ⟨fun h => ?_, eraseDone_keepsForm er
      { s with flash := flashErase s.flash (eraseRange er).1 (eraseRange er).2 }⟩)
    simpa [State.flashOk] using flashErase_wf _ _ h
  · exact .next (archiveFault_keepsStore s).then_select
  · exact .idle s

theorem execEraseTimeout_stores (s : State) : s.Stores (execEraseTimeout s) := by
  unfold execEraseTimeout
  repeat' split
  · exact .next (archiveFault_keepsStore s).then_select
  · exact .fault ..
  · exact .idle s

theorem execEraseMinRun_stores (s : State) : s.Stores (execEraseMinRun s) := by
  unfold execEraseMinRun
  split
  · exact .rests ⟨rfl, serveSuspended_goesOn ..⟩
  · exact .idle s

theorem execEraseHoldoffExpiry_stores (s : State) : s.Stores (execEraseHoldoffExpiry s) := by
  unfold execEraseHoldoffExpiry
  split
  · exact .rests ⟨rfl, ⟨rfl, rfl, rfl, id, trivial⟩⟩
  · exact .idle s

/-- The read of an abandoned fetch is no program. -/
theorem activity_orphan_follows (a : Archive) : a.MayFollow a.activity.orphan := by
  have hself := a.mayFollow_self
  unfold Activity.orphan
  split
  · trivial
  · trivial
  · exact hself

theorem execFetchAbandon_stores (s : State) : s.Stores (execFetchAbandon s) := by
  unfold execFetchAbandon
  split
  · exact .idle s
  · exact .rests ⟨rfl, ⟨rfl, rfl, rfl, id, activity_orphan_follows _⟩⟩

/-! ## Every command and every step -/

theorem exec_stores (i : Instr) (s : State) : s.Stores (exec i s) := by
  cases i with
  | powerUp => exact .next (holdReset_keepsStore s)
  | resetPin => exact .next (holdReset_keepsStore s)
  | resetPeriodEnd => exact execResetPeriodEnd_stores s
  | eepromReadDone ack bytes => exact execEepromReadDone_stores ack bytes s
  | sampleWord w => exact execSampleWord_stores w s
  | sampleFrameAbort => exact .idle s
  | statusInputEdge i level => exact execStatusInputEdge_stores i level s
  | filterTimerExpiry i => exact execFilterTimerExpiry_stores i s
  | minuteBoundary => exact execMinuteBoundary_stores s
  | ownExpiry => exact execOwnExpiry_stores s
  | markPulseEnd => exact .rests ⟨rfl, .refl _⟩
  | markFall => exact execMarkFall_stores s
  | markRise => exact execMarkRise_stores s
  | lowCheckExpiry => exact execLowCheckExpiry_stores s
  | holdOffExpiry => exact .rests ⟨rfl, .refl _⟩
  | markStuck => exact execMarkStuck_stores s
  | markNormal => exact execMarkNormal_stores s
  | timeFrame f => exact .next (receive_keepsStore 3 f s)
  | summaryFrame f => exact .next (receive_keepsStore 2 f s)
  | minuteFrame f => exact .next (receive_keepsStore 1 f s)
  | minuteDeadlineExpiry place => exact execMinuteDeadlineExpiry_stores place s
  | checkRequest f => exact .next (receive_keepsStore 10 f s)
  | settleExpiry => exact execSettleExpiry_stores s
  | measureExpiry => exact execMeasureExpiry_stores s
  | purgeTimerExpiry => exact execPurgeTimerExpiry_stores s
  | purgeCeiling => exact execPurgeCeiling_stores s
  | driftReset f => exact .next (receive_keepsStore 11 f s)
  | release f => exact .next (receive_keepsStore 12 f s)
  | fetch f => exact .next (receive_keepsStore 8 f s)
  | status f => exact .next (receive_keepsStore 13 f s)
  | restart f => exact .next (receive_keepsStore 15 f s)
  | unknownKind kind f => exact .next (receive_keepsStore kind f s)
  | badFrame line => exact execBadFrame_stores line s
  | duplicateStation kind f => exact .next (receive_keepsStore kind f s)
  | frameDisregarded kind f => exact .next (receive_keepsStore kind f s)
  | mediumIdle => exact execMediumIdle_stores s
  | contentionLost => exact execContentionLost_stores s
  | attemptSuccess => exact execAttemptSuccess_stores s
  | attemptFailure => exact execAttemptFailure_stores s
  | minuteFrameStale => exact execMinuteFrameStale_stores s
  | duplicateTimerExpiry => exact .rests ⟨rfl, .refl _⟩
  | restartTimerExpiry => exact execRestartTimerExpiry_stores s
  | flashReadDone => exact execFlashReadDone_stores s
  | flashProgramDone ok => exact execFlashProgramDone_stores ok s
  | programTimeout => exact execProgramTimeout_stores s
  | flashEraseDone ok => exact execFlashEraseDone_stores ok s
  | eraseTimeout => exact execEraseTimeout_stores s
  | eraseMinRun => exact execEraseMinRun_stores s
  | eraseHoldoffExpiry => exact execEraseHoldoffExpiry_stores s
  | resumeQueueRoom => exact .rests ⟨by simp, by simp⟩
  | fetchNextRead => exact .rests ⟨by simp, by simp⟩
  | fetchAbandon => exact execFetchAbandon_stores s
  | mediumBusy => exact .rests ⟨rfl, .refl _⟩

/-- A millisecond only runs the limit of a program in flight. -/
theorem activity_tick_follows (a : Archive) : a.MayFollow a.activity.tick := by
  have hself := a.mayFollow_self
  unfold Activity.tick
  split
  · rename_i p ha
    exact .inl ⟨p, ha, rfl⟩
  · trivial
  · trivial
  · exact hself

theorem idle_rests (s : State) : s.Rests (idle s) := by
  unfold idle
  split
  · exact ⟨rfl, ⟨rfl, rfl, rfl, id, activity_tick_follows _⟩⟩
  · exact ⟨rfl, .refl _⟩

theorem step_stores (s : State) : s.Stores (step s) := by
  unfold step
  split
  · exact .rests (idle_rests s)
  · rename_i c rest _
    have htaken : s.KeepsStore { s with pending := rest } := State.Rests.keeps ⟨rfl, .refl _⟩
    exact ⟨fun t ht => htaken.trans ((exec_stores c _).kept t ht)⟩

/-- Settles O3: every command and every millisecond keeps the store. -/
theorem flashFormKept : Obligations.FlashFormKept :=
  fun s t hs hstep => ((step_stores s).kept t hstep).flash hs

/-- Settles O5: every command and every millisecond keeps the form of the archive. -/
theorem recordQueueBoundKept : Obligations.RecordQueueBoundKept := by
  intro s t hstep
  obtain ⟨hqueue, herases, hopen⟩ := ((step_stores s).kept t hstep).arch
  rw [State.oneOpen_iff, State.oneOpen_iff]
  exact ⟨hqueue, herases, hopen⟩

end Sys2Proof.Machine
end

section
/-! What a program or an erase that is cut off leaves of the flash (spec/08, R133, R134, R142), and what a
reset leaves (spec/10, R179, R180). -/

namespace Sys2Proof.Machine

/-! ## Outside the range of an operation

These hold of any list of cells, in canonical form or not. -/

theorem flashRead_write_ne (m : List Host.Cell) {a x : Nat} (b : Byte) (h : x ≠ a) :
    flashRead (flashWrite m a b) x = flashRead m x := by
  induction m with
  | nil =>
    unfold flashWrite
    split
    · rfl
    · simp [flashRead, h.symm]
  | cons c m ih =>
    unfold flashWrite
    repeat' split
    · simp [flashRead, ih]
    · rename_i hc _
      simp [flashRead, hc, h.symm]
    · rename_i hc _
      simp [flashRead, hc, h.symm]
    · rfl
    · simp [flashRead, h.symm]

theorem flashRead_writeBytes_outside (m : List Host.Cell) {a x : Nat} (bs : List Byte)
    (h : x < a ∨ a + bs.length ≤ x) : flashRead (flashWriteBytes m a bs) x = flashRead m x := by
  induction bs generalizing m a with
  | nil => rfl
  | cons b bs ih =>
    rw [List.length_cons] at h
    rw [flashWriteBytes, ih _ (by omega), flashRead_write_ne _ _ (by omega)]

/-- A byte that no cell lists is erased. -/
theorem flashRead_unlisted {m : List Host.Cell} {x : Nat} (h : ∀ c ∈ m, c.1 ≠ x) :
    flashRead m x = erasedByte := by
  induction m with
  | nil => rfl
  | cons c m ih => rw [flashRead, if_neg (h c (by simp)), ih fun d hd => h d (by simp [hd])]

theorem flashRead_append_right {m : List Host.Cell} (n : List Host.Cell) {x : Nat}
    (h : ∀ c ∈ m, c.1 ≠ x) : flashRead (m ++ n) x = flashRead n x := by
  induction m with
  | nil => rfl
  | cons c m ih =>
    rw [List.cons_append, flashRead, if_neg (h c (by simp)), ih fun d hd => h d (by simp [hd])]

theorem flashRead_append_left (m : List Host.Cell) {n : List Host.Cell} {x : Nat}
    (h : ∀ c ∈ n, c.1 ≠ x) : flashRead (m ++ n) x = flashRead m x := by
  induction m with
  | nil => exact flashRead_unlisted h
  | cons c m ih => rw [List.cons_append, flashRead, ih, flashRead]

/-- An erase that is cut off changes no byte outside its range. -/
theorem flashRead_scramble_outside (m : List Host.Cell) {a len x : Nat} (g : Nat → Byte)
    (h : x < a ∨ a + len ≤ x) : flashRead (flashScramble m a len g) x = flashRead m x := by
  show flashRead (_ ++ scrambled a len g ++ _) x = _
  rcases h with h | h
  · rw [flashRead_append_left, flashRead_append_left, flashRead_filter m (decide <| · < a),
      if_pos (by simpa using h)]
    · intro c hc
      have := scrambled_mem hc
      omega
    · intro c hc
      simp only [List.mem_filter, decide_eq_true_eq] at hc
      omega
  · rw [flashRead_append_right, flashRead_filter m (decide <| a + len ≤ ·),
      if_pos (by simpa using h)]
    intro c hc
    rcases List.mem_append.mp hc with hc | hc
    · simp only [List.mem_filter, decide_eq_true_eq] at hc
      omega
    · have := scrambled_mem hc
      omega

theorem eraseRange_header {er : EraseRun} (h : 48 ≤ er.step) :
    eraseRange er = (areaBase er.area, headerLen) := by
  unfold eraseRange
  rw [if_neg (by omega), if_neg (by omega), headerLen_eq]

theorem cutHeaderBytes_length (draw : Nat) : (cutHeaderBytes draw).length ≤ 8 := by
  unfold cutHeaderBytes
  dsimp only
  split <;> simp

theorem flashRead_cutErased_outside (draw : Nat) {er : EraseRun} (m : List Host.Cell) {x : Nat}
    (h : x < (eraseRange er).1 ∨ (eraseRange er).1 + (eraseRange er).2 ≤ x) :
    flashRead (cutErased draw er m) x = flashRead m x := by
  unfold cutErased
  split
  · exact flashRead_scramble_outside m _ h
  · rw [eraseRange_header (by omega), headerLen_eq] at h
    dsimp only at h
    split
    · rfl
    · rcases cutMarker_cases draw (areaBase er.area) m with e | ⟨b, -, e, -⟩ <;> rw [e]
      exact flashRead_write_ne _ _ (by omega)
    · have := cutHeaderBytes_length draw
      rw [flashRead_writeBytes_outside _ _ (by omega), flashRead_erase, headerLen_eq,
        if_neg (by omega)]

/-! ## What a cut-off program leaves of its data (R133, R134) -/

theorem withPlaces_append {α : Type} (n : Nat) (xs ys : List α) :
    withPlaces n (xs ++ ys) = withPlaces n xs ++ withPlaces (n + xs.length) ys := by
  induction xs generalizing n with
  | nil => rfl
  | cons x xs ih =>
    rw [List.cons_append, withPlaces, ih, withPlaces, List.length_cons]
    congr 3
    omega

theorem lt_of_mem_withPlaces {α : Type} {n : Nat} {xs : List α} {p : Nat × α}
    (h : p ∈ withPlaces n xs) : p.1 < n + xs.length := by
  induction xs generalizing n with
  | nil => cases h
  | cons x xs ih =>
    rw [List.length_cons]
    rcases List.mem_cons.mp h with rfl | h
    · dsimp only
      omega
    · have := ih h
      omega

theorem withPlaces_map_snd {α : Type} (n : Nat) (xs : List α) :
    (withPlaces n xs).map (·.2) = xs := by
  induction xs generalizing n with
  | nil => rfl
  | cons x xs ih => rw [withPlaces, List.map_cons, ih]

theorem cutData_length (draw : Nat) (reset follows : Bool) (old : Nat → Byte) (data : List Byte) :
    (cutData draw reset follows old data).length = data.length := by
  unfold cutData
  rw [List.length_map, withPlaces_length]

/-- The byte that a reset leaves at a place of a program whose last byte follows the others, `len` bytes
long. -/
def cutFollowing (draw len : Nat) (p : Nat × Byte) : Byte :=
  if p.2 = erasedByte then erasedByte
  else if p.1 + 1 = len then
    if Config.cutByte draw (len - 1) = 0x00 then erasedByte else Config.cutByte draw (len - 1)
  else if Config.cutByte draw (len - 1) ≠ erasedByte then p.2
  else Config.cutByte draw p.1

theorem cutData_reset_eq (draw : Nat) (old : Nat → Byte) (data : List Byte) :
    cutData draw true true old data = (withPlaces 0 data).map (cutFollowing draw data.length) := by
  unfold cutData
  refine List.map_congr_left fun p _ => ?_
  simp [cutFollowing]

theorem cutFollowing_last_ne {draw len : Nat} {p : Nat × Byte} (h : p.1 + 1 = len) :
    cutFollowing draw len p ≠ 0x00 := by
  unfold cutFollowing
  rw [if_pos h]
  repeat' split
  · decide
  · decide
  · assumption

theorem cutFollowing_last_changed {draw len : Nat} {p : Nat × Byte} (h : p.1 + 1 = len)
    (hx : cutFollowing draw len p ≠ erasedByte) : Config.cutByte draw (len - 1) ≠ erasedByte := by
  unfold cutFollowing at hx
  rw [if_pos h] at hx
  split at hx
  · exact absurd rfl hx
  · split at hx
    · exact absurd rfl hx
    · exact hx

theorem cutFollowing_before {draw len : Nat} {p : Nat × Byte} (h : p.1 + 1 ≠ len)
    (hc : Config.cutByte draw (len - 1) ≠ erasedByte) : cutFollowing draw len p = p.2 := by
  unfold cutFollowing
  rw [if_neg h, if_pos hc]
  split
  · exact Eq.symm ‹_›
  · rfl

/-- Of a program whose last byte follows the others a reset leaves that byte other than 00h; where it has
changed, the others all stand. -/
theorem cutData_reset (draw : Nat) (old : Nat → Byte) (data : List Byte) (last : Byte) :
    ∃ bs x, cutData draw true true old (data ++ [last]) = bs ++ [x] ∧ bs.length = data.length ∧
      x ≠ 0x00 ∧ (x ≠ erasedByte → bs = data) := by
  have hend : (0 + data.length, last).1 + 1 = (data ++ [last]).length := by simp
  rw [cutData_reset_eq, withPlaces_append, List.map_append]
  refine ⟨_, _, rfl, by simp, cutFollowing_last_ne hend, fun hx => ?_⟩
  have hcut := cutFollowing_last_changed hend hx
  calc (withPlaces 0 data).map (cutFollowing draw (data ++ [last]).length)
      = (withPlaces 0 data).map (·.2) := List.map_congr_left fun p hp => by
        have hlt := lt_of_mem_withPlaces hp
        exact cutFollowing_before (by rw [List.length_append, List.length_singleton]; omega) hcut
    _ = data := withPlaces_map_snd 0 data

/-! ## The operation in flight is cut off -/

/-- A byte outside the program or the erase in flight (R138, R143). -/
structure Archive.Outside (a : Archive) (x : Nat) : Prop where
  program : ∀ p, a.activity = .programming p → x < p.addr ∨ p.addr + p.data.length ≤ x
  erase : ∀ er, a.activity = .erasing er ∨ (∃ r, a.activity = .suspendedRead er r) ∨
    (∃ n, a.activity = .suspendedHold er n) →
    x < (eraseRange er).1 ∨ (eraseRange er).1 + (eraseRange er).2 ≤ x

theorem flashRead_cutFlash_outside (reset : Bool) {s : State} {x : Nat} (h : s.arch.Outside x) :
    flashRead (cutFlash reset s).flash x = flashRead s.flash x := by
  unfold cutFlash
  split
  · refine flashRead_writeBytes_outside _ _ ?_
    rw [cutData_length]
    exact h.program _ ‹_›
  · exact flashRead_cutErased_outside _ _ (h.erase _ (.inl ‹_›))
  · exact flashRead_cutErased_outside _ _ (h.erase _ (.inr (.inl ⟨_, ‹_›⟩)))
  · exact flashRead_cutErased_outside _ _ (h.erase _ (.inr (.inr ⟨_, ‹_›⟩)))
  · rfl

theorem cutFlash_program_flash (reset : Bool) {s : State} {p : Program}
    (h : s.arch.activity = .programming p) :
    (cutFlash reset s).flash = flashWriteBytes s.flash p.addr
      (cutData s.draws reset p.purpose.lastFollows (fun i => flashRead s.flash (p.addr + i))
        p.data) := by
  unfold cutFlash; rw [h]

/-- Reading back what was programmed. -/
theorem flashReadBytes_writeBytes {m : List Host.Cell} (a : Nat) {bs : List Byte} {n : Nat}
    (h : flashWf m = true) (hn : n ≤ bs.length) :
    flashReadBytes (flashWriteBytes m a bs) a n = bs.take n := by
  unfold flashReadBytes
  refine List.ext_getElem (by simp [hn]) fun i h1 h2 => ?_
  have hi : i < n := by simpa using h1
  rw [List.getElem_map, List.getElem_range, flashRead_writeBytes _ _ _ h, if_pos (by omega),
    Nat.add_sub_cancel_left, List.getD_eq_getElem _ _ (by omega), List.getElem_take]

/-! ## Resets (R179, R180) -/

theorem exec_restartTimerExpiry {s : State} (h : s.bus.restart.isSome = true) :
    exec .restartTimerExpiry s = .next (restartReset s) := if_pos h

/-- A reset leaves the flash as the operation in flight is cut off. -/
theorem exec_reset_flash {i : Instr} {s t : State}
    (hi : i = .powerUp ∨ i = .resetPin ∨ i = .restartTimerExpiry) (h : exec i s = .next t) :
    t.flash = (cutFlash true s).flash ∨ t.flash = s.flash := by
  rcases hi with rfl | rfl | rfl
  · cases h; exact .inl rfl
  · cases h; exact .inl rfl
  · by_cases hr : s.bus.restart.isSome = true
    · rw [exec_restartTimerExpiry hr] at h
      cases h; exact .inl rfl
    · have hsame : exec .restartTimerExpiry s = .next s := if_neg hr
      rw [hsame] at h
      cases h; exact .inr rfl

/-- Settles O11: a reset cuts the operation in flight off and does nothing else to the flash. -/
theorem resetCutsOnlyTheOperationInFlight : Obligations.ResetCutsOnlyTheOperationInFlight := by
  intro i s t a hi hexec
  refine ⟨fun hp he => ?_, fun hrestart hr => ?_, fun p data last hact hheld hpurpose hdata hok => ?_⟩
  · rcases exec_reset_flash hi hexec with h | h
    · rw [h]
      exact flashRead_cutFlash_outside true ⟨hp, he⟩
    · rw [h]
  · subst hrestart
    rw [exec_restartTimerExpiry hr] at hexec
    cases hexec
    rfl
  · have ht : t.flash = (cutFlash true s).flash := by
      rw [exec_heldReset s hheld] at hexec
      cases hexec
      rfl
    have hfollows : p.purpose.lastFollows = true := by
      rcases hpurpose with h | ⟨_, _, h⟩ <;> rw [h] <;> rfl
    obtain ⟨bs, x, hcut, hlen, hne, hstand⟩ := cutData_reset s.draws
      (fun i => flashRead s.flash (p.addr + i)) data last
    rw [ht, cutFlash_program_flash true hact, hfollows, hdata, hcut]
    have hlast : flashRead (flashWriteBytes s.flash p.addr (bs ++ [x])) (p.addr + data.length) = x := by
      rw [flashRead_writeBytes _ _ _ hok, if_pos (by simp [hlen]), ← hlen]
      simp
    rw [hlast]
    refine ⟨hne, fun hx => ?_⟩
    rw [flashReadBytes_writeBytes _ hok (by simp [hlen]), ← hlen, List.take_left]
    exact hstand hx

end Sys2Proof.Machine
end

section
/-! The ends of programs and erases (spec/08, R139 to R144): the record stored, FAULT, and an erase's
steps, suspension and end. -/

namespace Sys2Proof.Machine

/-! ## Completions in the device (R132, R141, R142) -/

theorem inFlash_eq_true {addr len : Nat} (h : addr + len ≤ flashSize) : inFlash addr len = true :=
  decide_eq_true h

theorem inFlash_eq_false {addr len : Nat} (h : flashSize < addr + len) : inFlash addr len = false :=
  decide_eq_false (by omega)

theorem exec_flashReadDone {s : State} {req : ReadReq} (ha : s.arch.activity = .reading req)
    (hf : req.addr + req.len ≤ flashSize) :
    exec .flashReadDone s = .next (select (readDone req
      { s with arch := { s.arch with activity := .idle } })) := by
  show execFlashReadDone s = _
  unfold execFlashReadDone endRead
  rw [ha]
  exact if_pos (inFlash_eq_true hf)

theorem exec_flashProgramDone {s : State} {p : Program} (ha : s.arch.activity = .programming p)
    (hf : p.addr + p.data.length ≤ flashSize) :
    exec (.flashProgramDone true) s = .next (select (programmed p.purpose
      { s with
        flash := flashWriteBytes s.flash p.addr p.data
        arch := { s.arch with activity := .idle } })) := by
  show execFlashProgramDone true s = _
  unfold execFlashProgramDone
  rw [ha]
  dsimp only
  rw [inFlash_eq_true hf]
  rfl

/-- A program that fails and one that runs out of time end alike (R144). -/
theorem exec_programFailed {i : Instr} {s : State} {p : Program}
    (hi : i = .flashProgramDone false ∨ i = .programTimeout)
    (ha : s.arch.activity = .programming p) (hf : p.addr + p.data.length ≤ flashSize) :
    exec i s = .next (programFailed p.purpose s) := by
  rcases hi with rfl | rfl
  · show execFlashProgramDone false s = _
    unfold execFlashProgramDone
    rw [ha]
    dsimp only
    rw [inFlash_eq_true hf]
    rfl
  · show execProgramTimeout s = _
    unfold execProgramTimeout
    rw [ha]
    exact if_pos (inFlash_eq_true hf)

theorem exec_flashEraseDone {s : State} {er : EraseRun} (ha : s.arch.activity = .erasing er)
    (hf : (eraseRange er).1 + (eraseRange er).2 ≤ flashSize) :
    exec (.flashEraseDone true) s = .next (select (eraseDone er
      { s with flash := flashErase s.flash (eraseRange er).1 (eraseRange er).2 })) := by
  show execFlashEraseDone true s = _
  unfold execFlashEraseDone
  rw [ha]
  dsimp only
  rw [inFlash_eq_true hf]
  rfl

/-- An erase that fails and one that reaches its limit end alike (R142, R144). -/
theorem exec_eraseFailed {i : Instr} {s : State} {er : EraseRun}
    (hi : i = .flashEraseDone false ∨ i = .eraseTimeout) (ha : s.arch.activity = .erasing er)
    (hf : (eraseRange er).1 + (eraseRange er).2 ≤ flashSize) :
    exec i s = .next (select (archiveFault s)) := by
  rcases hi with rfl | rfl
  · show execFlashEraseDone false s = _
    unfold execFlashEraseDone
    rw [ha]
    dsimp only
    rw [inFlash_eq_true hf]
    rfl
  · show execEraseTimeout s = _
    unfold execEraseTimeout
    rw [ha]
    exact if_pos (inFlash_eq_true hf)

/-- Settles O46: an operation outside the device has no completion. -/
theorem operationOutsideTheDeviceFaults : Obligations.OperationOutsideTheDeviceFaults := by
  intro s req p ok
  refine ⟨fun ha hf => ?_, fun ha hf => ⟨?_, ?_⟩⟩
  · show execFlashReadDone s = _
    unfold execFlashReadDone
    rw [ha]
    exact if_neg (by simp [inFlash_eq_false hf])
  · show execFlashProgramDone ok s = _
    unfold execFlashProgramDone
    rw [ha]
    exact if_pos (by simp [inFlash_eq_false hf])
  · show execProgramTimeout s = _
    unfold execProgramTimeout
    rw [ha]
    exact if_neg (by simp [inFlash_eq_false hf])

/-- Settles O42: the job leaves the queue, nothing waits, and the flash holds the bytes programmed. -/
theorem programStoresTheRecord : Obligations.ProgramStoresTheRecord := by
  intro s p j ha hpurpose hf hq hr ho he hok
  have hdone := exec_flashProgramDone ha hf
  have hwaits : select (programmed .record { s with
      flash := flashWriteBytes s.flash p.addr p.data
      arch := { s.arch with activity := .idle } }) = programmed .record { s with
      flash := flashWriteBytes s.flash p.addr p.data
      arch := { s.arch with activity := .idle } } :=
    select_empty hr ho (congrArg List.tail hq) he
  rw [hpurpose, hwaits] at hdone
  refine ⟨_, hdone, rfl, ?_, ?_, fun a => flashRead_writeBytes_outside _ _⟩
  · show ({ s.arch with activity := .idle } : Archive).popJob = _
    simp [Archive.popJob, hq]
  · show flashReadBytes (flashWriteBytes s.flash p.addr p.data) _ _ = _
    rw [flashReadBytes_writeBytes _ hok le_rfl, List.take_length]

/-! ## FAULT (R144) -/

/-- In FAULT with nothing on the line, the oldest waiting read is served, or nothing is (R138, R144). -/
theorem selectWith_fault {cal : Option IStamp} {n fuel : Nat} {a : Archive}
    (hc : a.condition = .fault) (hi : a.activity = .idle) (ho : a.opening = none)
    (hq : a.queue = []) :
    selectWith cal n (fuel + 1) a = a ∨
      ∃ r rs, selectWith cal n (fuel + 1) a = { a with activity := .reading r, reads := rs } := by
  cases hr : a.reads with
  | nil =>
    left
    unfold selectWith
    rw [if_neg (by simp [hi]), hr, ho, hq]
    simp [hc]
  | cons r rs => exact .inr ⟨r, rs, selectWith_read cal n fuel a r rs hi hr⟩

/-- The archive after its failure: FAULT, the queue and the opening discarded, nothing in flight but a
read. -/
structure Archive.Failed (a b : Archive) : Prop where
  condition : b.condition = .fault
  queue : b.queue = []
  opening : b.opening = none
  erases : b.erases = a.erases
  table : b.table = a.table
  activity : b.activity = .idle ∨ ∃ r, b.activity = .reading r

theorem select_archiveFault_failed (s : State) : s.arch.Failed (select (archiveFault s)).arch := by
  rw [select_arch, archiveFault_arch]
  rcases selectWith_fault (a := { s.arch.addDropped (s.arch.queue.countP Job.isRecord) with
      condition := .fault, queue := [], jobFound := false, opening := none, wanted := none,
      activity := .idle }) (fuel := 63) rfl rfl rfl rfl with h | ⟨r, rs, h⟩ <;> rw [h]
  · exact ⟨rfl, rfl, rfl, rfl, rfl, .inl rfl⟩
  · exact ⟨rfl, rfl, rfl, rfl, rfl, .inr ⟨r, rfl⟩⟩

/-- A program or an erase is in flight: cutting it off takes one draw. -/
theorem cutFlash_draws {reset : Bool} {s : State}
    (h : (∃ p, s.arch.activity = .programming p) ∨ ∃ er, s.arch.activity = .erasing er) :
    (cutFlash reset s).draws = s.draws + 1 := by
  unfold cutFlash
  rcases h with ⟨p, h⟩ | ⟨er, h⟩ <;> rw [h]

theorem select_archiveFault_eq {s : State}
    (h : (∃ p, s.arch.activity = .programming p) ∨ ∃ er, s.arch.activity = .erasing er) :
    select (archiveFault s) = { s with
      arch := (select (archiveFault s)).arch, flash := (cutFlash false s).flash
      draws := s.draws + 1 } := by
  apply State.ext_fields <;> simp
  · exact cutFlash_draws h
  · rfl

/-- Settles O43: both failures are the entering of FAULT, which cuts the operation in flight off. -/
theorem failureIsAnArchiveFault : Obligations.FailureIsAnArchiveFault := by
  intro i s lo len h
  obtain ⟨hexec, hflight, hout⟩ : exec i s = .next (select (archiveFault s)) ∧
      ((∃ p, s.arch.activity = .programming p) ∨ ∃ er, s.arch.activity = .erasing er) ∧
      ∀ a, a < lo ∨ lo + len ≤ a → s.arch.Outside a := by
    rcases h with ⟨hi, p, ha, rfl, rfl, hf, hp⟩ | ⟨hi, er, ha, rfl, rfl, hf⟩
    · refine ⟨?_, .inl ⟨p, ha⟩, fun a hout => ⟨?_, ?_⟩⟩
      · rw [exec_programFailed hi ha hf]
        unfold programFailed
        split
        · exact absurd ‹_› (hp _)
        · rfl
      · intro q hq
        cases ha.symm.trans hq
        exact hout
      · rintro er (hq | ⟨_, hq⟩ | ⟨_, hq⟩) <;> cases ha.symm.trans hq
    · refine ⟨exec_eraseFailed hi ha hf, .inr ⟨er, ha⟩, fun a hout => ⟨?_, ?_⟩⟩
      · intro q hq
        cases ha.symm.trans hq
      · rintro er' (hq | ⟨_, hq⟩ | ⟨_, hq⟩) <;> cases ha.symm.trans hq
        exact hout
  obtain ⟨hcondition, hqueue, hopening, herases, htable, hactivity⟩ := select_archiveFault_failed s
  have heq := select_archiveFault_eq hflight
  have hflash : (select (archiveFault s)).flash = (cutFlash false s).flash := rfl
  refine ⟨_, hexec, hcondition, ?_, hqueue, hopening, herases, hactivity, htable, fun a ha => ?_, heq⟩
  · simp [State.archiveCause, hcondition]
  · rw [hflash]
    exact flashRead_cutFlash_outside false (hout a ha)

/-! ## Erases (R142, R143) -/

/-- The header's erase frees the area and takes it off the list (R142). -/
theorem eraseDone_header {er : EraseRun} {s : State} (h : 48 ≤ er.step) :
    (eraseDone er s).arch.erases = s.arch.erases.tail ∧
      (eraseDone er s).arch.table =
        s.arch.table.map fun t => t.modify er.area fun _ => ⟨.free, none, none, false⟩ := by
  unfold eraseDone
  dsimp only
  rw [if_neg (by omega)]
  obtain ⟨htable, herases, -⟩ := openWanted_goesOn er.area s.mark.calendar
    { ({ s.arch with activity := .idle } : Archive).setArea er.area
        fun _ => ⟨.free, none, none, false⟩ with erases := s.arch.erases.tail }
  exact ⟨herases, htable⟩

/-- Settles O44: the suspension, the resumption, and the end of an erase step. -/
theorem erasesRunYieldAndEnd : Obligations.ErasesRunYieldAndEnd := by
  intro s er a
  refine ⟨fun r rs ha hr => ?_, fun n ha => ?_, fun ha hf => ?_⟩
  · show execEraseMinRun s = _
    unfold execEraseMinRun serveSuspended
    rw [ha, hr]
  · show execEraseHoldoffExpiry s = _
    unfold execEraseHoldoffExpiry
    rw [ha]
  · have hread (x : Nat) : flashRead (select (eraseDone er
        { s with flash := flashErase s.flash (eraseRange er).1 (eraseRange er).2 })).flash x =
        if (eraseRange er).1 ≤ x ∧ x < (eraseRange er).1 + (eraseRange er).2 then erasedByte
        else flashRead s.flash x := by
      simpa using flashRead_erase s.flash (eraseRange er).1 (eraseRange er).2 x
    refine ⟨_, exec_flashEraseDone ha hf, ?_, fun hout => ?_, fun hlo hhi => ?_, fun hstep => ?_⟩
    · apply State.ext_fields <;> simp
    · rw [hread, if_neg (by omega)]
    · rw [hread, if_pos ⟨hlo, hhi⟩]
      rfl
    · obtain ⟨herases, htable⟩ := eraseDone_header (s := { s with
        flash := flashErase s.flash (eraseRange er).1 (eraseRange er).2 }) hstep
      refine ⟨(select_lists _).2.trans herases, fun ht => ?_⟩
      obtain ⟨t, ht⟩ := Option.isSome_iff_exists.mp ht
      unfold Archive.areaState
      rw [(select_lists _).1, htable, ht]
      simp

end Sys2Proof.Machine
end

section
/-! The jobs of the record queue at the flash (spec/08, R139, R140): what the read of a slot leads to. -/

namespace Sys2Proof.Machine

/-! ## The slot read (R139, R140) -/

theorem exec_flashReadDone_job {s : State} {req : ReadReq} (ha : s.arch.activity = .reading req)
    (hw : req.who = .job) (hf : req.addr + req.len ≤ flashSize) :
    exec .flashReadDone s = .next (select { s with
      arch := jobReadDone s.mark.calendar (flashReadBytes s.flash req.addr req.len)
        { s.arch with activity := .idle } }) := by
  rw [exec_flashReadDone ha hf]
  unfold readDone
  rw [hw]

/-- A slot not ERASED refuses an interval, day or summary job (R139). -/
theorem jobReadDone_refused {cal : Option IStamp} {bytes : List Byte} {a : Archive} {j : Job}
    {js : List Job} {kind : Nat} {stamp : List Byte} (h : slotState bytes ≠ .erased)
    (hq : a.queue = j :: js) (hc : j.conflict = some (kind, stamp)) :
    jobReadDone cal bytes a = refuseJob cal kind (foundCode (slotState bytes)) stamp a := by
  unfold jobReadDone
  rw [if_neg h, hq]
  dsimp only
  rw [hc]

/-- A slot not ERASED is passed over by an event job (R140). -/
theorem jobReadDone_passed {cal : Option IStamp} {bytes data : List Byte} {a : Archive}
    {js : List Job} (h : slotState bytes ≠ .erased) (hq : a.queue = .event data :: js) :
    jobReadDone cal bytes a = { a with nextEvent := a.nextEvent + 1 } := by
  unfold jobReadDone
  rw [if_neg h, hq]
  rfl

theorem foundCode_eq (st : SlotState) : foundCode st = if st = .committed then 3 else 2 := by
  cases st <;> rfl

/-- A READY archive with room takes the WRITE_CONFLICT event of a refused job (R136, R139). -/
theorem refuseJob_ready {cal : Option IStamp} {kind found : Nat} {stamp : List Byte} {a : Archive}
    {j : Job} {js : List Job} (hc : a.condition = .ready) (hq : a.queue = j :: js)
    (hl : js.length < 16) :
    refuseJob cal kind found stamp a =
      { a.popJob.addDropped 1 with
        queue := js ++ [.event (writeConflictEvent cal kind found stamp)] } := by
  have htail : (a.popJob.addDropped 1).queue = js := congrArg List.tail hq
  unfold refuseJob
  rw [enqueue_room _ (a.popJob.addDropped 1) (by rw [htail]; exact hl) (.inr hc), htail]

/-! ## The head job taken (R138 to R140) -/

theorem takeRecord_programs {cal : Option IStamp} {year index : Nat} {kind : RecordKind}
    {data stamp : List Byte} {a : Archive} {i : Area} {e : AreaEntry}
    (ho : a.openArea = some (i, e)) (hy : e.year = some year) (hf : a.jobFound = true) :
    takeRecord cal year kind index data stamp a =
      { a with activity := .programming ⟨.record, slotAddr i kind index, data, 10⟩ } := by
  unfold takeRecord
  rw [ho]
  dsimp only
  rw [if_neg (not_not.mpr hy), if_pos hf]

theorem takeEvent_programs {data : List Byte} {a : Archive} {i : Area} {e : AreaEntry}
    (ho : a.openArea = some (i, e)) (hn : a.nextEvent < 2048) (hf : a.jobFound = true) :
    takeEvent data a = { a with
      activity := .programming ⟨.record, slotAddr i .event a.nextEvent, data, 10⟩
      nextEvent := a.nextEvent + 1 } := by
  unfold takeEvent
  rw [ho]
  dsimp only
  rw [if_neg (by omega), if_pos hf]

theorem takeEvent_reads {data : List Byte} {a : Archive} {i : Area} {e : AreaEntry}
    (ho : a.openArea = some (i, e)) (hn : a.nextEvent < 2048) (hf : a.jobFound = false) :
    takeEvent data a = { a with
      activity := .reading ⟨.job, slotAddr i .event a.nextEvent, slotSize .event⟩ } := by
  unfold takeEvent
  rw [ho]
  dsimp only
  rw [if_neg (by omega), if_neg (by simp [hf])]

/-- A job that goes to one slot of its own: an interval, day or summary record (R139). -/
structure Job.Slotted (j : Job) (kind : RecordKind) (year index : Nat) (data stamp : List Byte) :
    Prop where
  conflict : j.conflict = some (kind.code, stamp)
  take : ∀ cal a, takeJob cal j a = takeRecord cal year kind index data stamp a

/-- A job waits alone on a resting line, the record queue served, one area OPEN with a slot for events. -/
structure Archive.HeadWaits (a : Archive) (j : Job) (i : Area) (e : AreaEntry) : Prop where
  idle : a.activity = .idle
  queue : a.queue = [j]
  openArea : a.openArea = some (i, e)
  reads : a.reads = []
  opening : a.opening = none
  service : a.service = true
  nextEvent : a.nextEvent < 2048

/-- The waiting job is taken, and what it starts is in flight. -/
theorem select_takes {s : State} {a b : Archive} {j : Job} {i : Area} {e : AreaEntry}
    (h : a.HeadWaits j i e) (htake : takeJob s.mark.calendar j a = b) (hbusy : b.activity ≠ .idle) :
    select { s with arch := a } = { s with arch := b } := by
  subst htake
  show ({ s with arch := selectWith s.mark.calendar s.number 64 a } : State) = _
  rw [selectWith_job _ _ 63 a j [] h.idle h.reads h.opening h.queue h.service,
    selectWith_busy _ _ _ _ hbusy]

section job
variable {s : State} {a : Archive} {j : Job} {i : Area} {e : AreaEntry} {bytes : List Byte}

/-- Its slot ERASED, a slotted job is programmed there. -/
theorem select_slotted_erased {kind : RecordKind} {year index : Nat} {data stamp : List Byte}
    (h : a.HeadWaits j i e) (hj : j.Slotted kind year index data stamp) (hy : e.year = some year)
    (he : slotState bytes = .erased) :
    select { s with arch := jobReadDone s.mark.calendar bytes a } = { s with arch :=
      { a with
        jobFound := true
        activity := .programming ⟨.record, slotAddr i kind index, data, 10⟩ } } := by
  have hfound : jobReadDone s.mark.calendar bytes a = { a with jobFound := true } := if_pos he
  obtain ⟨hidle, hqueue, hopen, hreads, hopening, hservice, hevent⟩ := h
  rw [hfound]
  refine select_takes (j := j) (i := i) (e := e)
    ⟨hidle, hqueue, hopen, hreads, hopening, hservice, hevent⟩ ?_ nofun
  rw [hj.take]
  exact takeRecord_programs hopen hy rfl

/-- Its slot not ERASED, a slotted job is discarded and counted; its event waits in its place, the event's
own slot read next. -/
theorem select_slotted_refused {kind : RecordKind} {year index : Nat} {data stamp : List Byte}
    (h : a.HeadWaits j i e) (hj : j.Slotted kind year index data stamp) (hc : a.condition = .ready)
    (he : slotState bytes ≠ .erased) :
    select { s with arch := jobReadDone s.mark.calendar bytes a } = { s with arch :=
      { a.popJob.addDropped 1 with
        queue := [.event (writeConflictEvent s.mark.calendar kind.code
          (if slotState bytes = .committed then 3 else 2) stamp)]
        activity := .reading ⟨.job, slotAddr i .event a.nextEvent, slotSize .event⟩ } } := by
  have hrefused := (jobReadDone_refused (cal := s.mark.calendar) he h.queue hj.conflict).trans
    (refuseJob_ready hc h.queue (by decide))
  obtain ⟨hidle, hqueue, hopen, hreads, hopening, hservice, hevent⟩ := h
  rw [hrefused, foundCode_eq, List.nil_append]
  exact select_takes (i := i) (e := e) ⟨hidle, rfl, hopen, hreads, hopening, hservice, hevent⟩
    (takeEvent_reads hopen hevent rfl) nofun

/-- Its slot ERASED, an event job is programmed there, and the next slot comes next. -/
theorem select_event_erased {data : List Byte} (h : a.HeadWaits (.event data) i e)
    (he : slotState bytes = .erased) :
    select { s with arch := jobReadDone s.mark.calendar bytes a } = { s with arch :=
      { a with
        jobFound := true
        activity := .programming ⟨.record, slotAddr i .event a.nextEvent, data, 10⟩
        nextEvent := a.nextEvent + 1 } } := by
  have hfound : jobReadDone s.mark.calendar bytes a = { a with jobFound := true } := if_pos he
  obtain ⟨hidle, hqueue, hopen, hreads, hopening, hservice, hevent⟩ := h
  rw [hfound]
  exact select_takes (i := i) (e := e)
    ⟨hidle, hqueue, hopen, hreads, hopening, hservice, hevent⟩
    (takeEvent_programs hopen hevent rfl) nofun

/-- Its slot not ERASED, an event job passes it over and reads the next. -/
theorem select_event_passed {data : List Byte} (h : a.HeadWaits (.event data) i e)
    (he : slotState bytes ≠ .erased) (hn : a.nextEvent + 1 < 2048) (hf : a.jobFound = false) :
    select { s with arch := jobReadDone s.mark.calendar bytes a } = { s with arch :=
      { a with
        nextEvent := a.nextEvent + 1
        activity := .reading ⟨.job, slotAddr i .event (a.nextEvent + 1), slotSize .event⟩ } } := by
  obtain ⟨hidle, hqueue, hopen, hreads, hopening, hservice, -⟩ := h
  rw [jobReadDone_passed he hqueue]
  exact select_takes (i := i) (e := e) ⟨hidle, hqueue, hopen, hreads, hopening, hservice, hn⟩
    (takeEvent_reads hopen hn hf) nofun

end job

/-- Settles O45: by the job and by what its slot read. -/
theorem jobProgramsOnlyAnErasedSlot : Obligations.JobProgramsOnlyAnErasedSlot := by
  intro s req i e j data bytes ha hw hf hq ho hr hopening hs hc hn hbytes
  have hexec := exec_flashReadDone_job ha hw hf
  rw [← hbytes] at hexec
  have hwaits : ({ s.arch with activity := .idle } : Archive).HeadWaits j i e :=
    ⟨rfl, hq, ho, hr, hopening, hs, hn⟩
  refine ⟨fun kind year index stamp hj hy => ?_, fun hj => ?_⟩
  · have hslot : j.Slotted kind year index data stamp := by
      rcases hj with ⟨st, rfl, rfl, rfl, rfl, rfl⟩ | ⟨d, rfl, rfl, rfl, rfl, rfl⟩ | ⟨rfl, rfl, rfl⟩
      · exact ⟨rfl, fun _ _ => rfl⟩
      · exact ⟨rfl, fun _ _ => rfl⟩
      · exact ⟨rfl, fun _ _ => rfl⟩
    refine ⟨_, hexec, rfl, fun he => ?_, fun he => ?_⟩
    · rw [select_slotted_erased hwaits hslot hy he]
      exact ⟨rfl, rfl⟩
    · rw [select_slotted_refused hwaits hslot hc he]
      exact ⟨rfl, rfl⟩
  · subst hj
    refine ⟨_, hexec, rfl, fun he => ?_, fun he hnext hfound => ?_⟩
    · rw [select_event_erased hwaits he]
      exact ⟨rfl, rfl, rfl⟩
    · rw [select_event_passed hwaits he hnext hfound]
      exact ⟨rfl, rfl, rfl⟩

end Sys2Proof.Machine
end

section
/-! The requests of the archive: an accepted RELEASE (spec/08, R147), and a fetch from its request to its end
(R148 to R151). -/

namespace Sys2Proof.Machine

/-! ## RELEASE (R147) -/

theorem exec_release {s : State} {j : Joined} {f : RxFrame} (hj : s.bus.joined = some j)
    (h0 : f.source ≠ 0) (hs : f.source.toNat ≠ j.number) (hd : f.dest ≠ 0)
    (hn : f.dest.toNat = j.number) (hl : f.payload.length = 2)
    (hst : s.loader.station ≠ .halted) : exec (.release f) s = .next (handleRelease f s) := by
  show Host.Outcome.next (receive 12 f s) = _
  rw [receive_request hj h0 hs hd hn (by decide) (by rw [hl]; rfl) (.inl hst)]
  rfl

/-- While an operation is in flight an accepted RELEASE only joins the lists and is answered. -/
theorem handleRelease_accepted {s : State} {f : RxFrame} {i : Area} {e : AreaEntry}
    (ho : releaseOutcome (field f.payload 0 2) s.arch = .accepted)
    (hy : s.arch.findYear (field f.payload 0 2) = some (i, e)) (hbusy : s.arch.activity ≠ .idle) :
    handleRelease f s = answer 12 f .accepted { s with arch := s.arch.release i } := by
  have hselect : select { s with arch := s.arch.release i } = { s with arch := s.arch.release i } :=
    select_busy hbusy
  unfold handleRelease
  dsimp only
  rw [ho, hy]
  exact congrArg (answer 12 f .accepted) hselect

theorem findYear_table {a : Archive} {year : Nat} {i : Area} {e : AreaEntry}
    (h : a.findYear year = some (i, e)) : ∃ t, a.table = some t := by
  unfold Archive.findYear at h
  cases ht : a.table with
  | none => rw [ht] at h; cases h
  | some t => exact ⟨t, rfl⟩

/-- The area of an accepted RELEASE carries its mark (R135, R147). -/
theorem release_releaseWaiting {a : Archive} {t : Areas AreaEntry} (i : Area)
    (ht : a.table = some t) : (a.release i).releaseWaiting i = true := by
  simp [Archive.release, Archive.setArea, Archive.releaseWaiting, ht]

/-- Settles O47: the request reaches the archive, the tests are passed, and the area joins both lists. -/
theorem acceptedReleaseJoinsTheLists : Obligations.AcceptedReleaseJoinsTheLists := by
  intro s j f i e r hj h0 hs hd hn hl hst ha ho hy
  have hbusy : s.arch.activity ≠ .idle := by rw [ha]; nofun
  obtain ⟨t, ht⟩ := findYear_table hy
  have hexec := exec_release hj h0 hs hd hn hl hst
  rw [handleRelease_accepted ho hy hbusy] at hexec
  exact ⟨_, hexec, rfl, rfl, rfl, release_releaseWaiting i ht, rfl⟩

/-! ## The turns of a fetch (R150, R151) -/

/-- A fetch that is to read its next index: no read of its own under way, the index in the section, its area
not ERASING. -/
structure FetchState.Ready (ft : FetchState) (a : Archive) : Prop where
  active : a.fetch = some ft
  reading : ft.reading = false
  inSection : ft.next < sectionSlots ft.kind
  area : a.areaState ft.area ≠ some .erasing

theorem advanceFetch_requests {s : State} {ft : FetchState} (h : ft.Ready s.arch)
    (hroom : s.bus.queue.length < 12) :
    advanceFetch s = requestRead ⟨.fetch, slotAddr ft.area ft.kind ft.next, slotSize ft.kind⟩
      { s with arch := { s.arch with fetch := some { ft with reading := true } } } := by
  obtain ⟨hactive, hreading, hsection, harea⟩ := h
  unfold advanceFetch
  rw [hactive]
  dsimp only
  rw [if_neg (by simp [hreading, hroom]), if_neg (by omega), if_neg harea]

/-- On a resting line with no other read waiting the read begins at once. -/
theorem advanceFetch_reads {s : State} {ft : FetchState} (h : ft.Ready s.arch)
    (hroom : s.bus.queue.length < 12) (hi : s.arch.activity = .idle) (hr : s.arch.reads = []) :
    advanceFetch s = { s with arch := { s.arch with
      fetch := some { ft with reading := true }
      activity := .reading ⟨.fetch, slotAddr ft.area ft.kind ft.next, slotSize ft.kind⟩ } } := by
  rw [advanceFetch_requests h hroom]
  exact requestRead_idle
    (s := { s with arch := { s.arch with fetch := some { ft with reading := true } } }) _ hi hr

/-- Without room in the transmit queue the fetch waits. -/
theorem advanceFetch_waits {s : State} {ft : FetchState} (h : s.arch.fetch = some ft)
    (hfull : 12 ≤ s.bus.queue.length) : advanceFetch s = s := by
  unfold advanceFetch
  rw [h]
  exact if_pos (by simp [hfull])

/-- Beyond the section the fetch ends with RANGE (R151). -/
theorem advanceFetch_range {s : State} {ft : FetchState} (h : s.arch.fetch = some ft)
    (hreading : ft.reading = false) (hroom : s.bus.queue.length < 12)
    (hend : sectionSlots ft.kind ≤ ft.next) : advanceFetch s = endFetch .range ft s := by
  unfold advanceFetch
  rw [h]
  dsimp only
  rw [if_neg (by simp [hreading, hroom]), if_pos hend]

theorem select_fetch (s : State) : (select s).arch.fetch = s.arch.fetch := by
  obtain ⟨-, -, -, hfetch, -⟩ := selectWith_keeps s.mark.calendar s.number 64 s.arch
  exact hfetch

/-- A read requested leaves the fetch. -/
theorem requestRead_fetch (r : ReadReq) (s : State) :
    (requestRead r s).arch.fetch = s.arch.fetch := by
  unfold requestRead serveSuspended
  dsimp only
  repeat' split
  all_goals simp [select_fetch]

/-- A fetch that has its read goes on to the next where the transmit queue has room, and waits where not. -/
theorem advanceFetch_ready {s : State} {ft : FetchState} (h : ft.Ready s.arch) :
    (advanceFetch s).bus = s.bus ∧ (advanceFetch s).arch.fetch =
      some { ft with reading := decide (s.bus.queue.length < 12) } := by
  by_cases hroom : s.bus.queue.length < 12
  · rw [advanceFetch_requests h hroom, requestRead_fetch, decide_eq_true hroom]
    exact ⟨by simp, rfl⟩
  · rw [advanceFetch_waits h.active (by omega), decide_eq_false hroom, h.active, ← h.reading]
    exact ⟨rfl, rfl⟩

/-! ## FETCH (R148 to R150) -/

theorem exec_fetch {s : State} {j : Joined} {f : RxFrame} (hj : s.bus.joined = some j)
    (h0 : f.source ≠ 0) (hs : f.source.toNat ≠ j.number) (hd : f.dest ≠ 0)
    (hn : f.dest.toNat = j.number) (hl : f.payload.length = 6)
    (hst : s.loader.station ≠ .halted) : exec (.fetch f) s = .next (handleFetch f s) := by
  show Host.Outcome.next (receive 8 f s) = _
  rw [receive_request hj h0 hs hd hn (by decide) (by rw [hl]; rfl) (.inl hst)]
  rfl

theorem handleFetch_accepted {s : State} {f : RxFrame} {i : Area} {e : AreaEntry} {k : RecordKind}
    (ho : fetchOutcome (field f.payload 0 2) (field f.payload 2 1) (field f.payload 5 1) s.arch =
      .accepted) (hy : s.arch.findYear (field f.payload 0 2) = some (i, e))
    (hk : recordKindOf (field f.payload 2 1) = some k) :
    handleFetch f s =
      advanceFetch { s with arch := { s.arch with fetch := some (newFetch f i k) } } := by
  unfold handleFetch
  dsimp only
  rw [ho, hy, hk]

/-- The tests of R149 have found the area in another state than ERASING. -/
theorem fetchOutcome_area {year kind count : Nat} {a : Archive} {i : Area} {e : AreaEntry}
    (h : fetchOutcome year kind count a = .accepted) (hy : a.findYear year = some (i, e)) :
    e.state ≠ .erasing := by
  unfold fetchOutcome at h
  rw [hy] at h
  dsimp only at h
  repeat' split at h
  · cases h
  · cases h
  · cases h
  · cases h
  · assumption

/-- The area found by year comes with its entry of the table (R147). -/
theorem findYear_areaState {a : Archive} {year : Nat} {i : Area} {e : AreaEntry}
    (h : a.findYear year = some (i, e)) : a.areaState i = some e.state := by
  obtain ⟨t, ht⟩ := findYear_table h
  unfold Archive.findYear at h
  rw [ht] at h
  obtain ⟨st, -, hfound⟩ := List.exists_of_findSome?_eq_some h
  obtain ⟨k, -, hk⟩ := List.mem_map.mp (List.mem_of_find?_eq_some hfound)
  cases hk
  rw [Archive.areaState, ht]
  rfl

/-- Settles O48: the accepted fetch is ready, and its first read begins. -/
theorem acceptedFetchRequestsItsRead : Obligations.AcceptedFetchRequestsItsRead := by
  intro s j f i e k hj h0 hs hd hn hl hst hi hr hroom ho hy hk hsection
  have hready : (newFetch f i k).Ready { s.arch with fetch := some (newFetch f i k) } := by
    refine ⟨rfl, rfl, hsection, ?_⟩
    show s.arch.areaState i ≠ _
    rw [findYear_areaState hy]
    exact fun h => fetchOutcome_area ho hy (Option.some.inj h)
  have hexec := exec_fetch hj h0 hs hd hn hl hst
  rw [handleFetch_accepted ho hy hk,
    advanceFetch_reads (s := { s with arch := { s.arch with fetch := some (newFetch f i k) } })
      hready hroom hi hr] at hexec
  exact ⟨_, hexec, rfl, rfl, rfl⟩

/-! ## A fetch goes on and ends (R150, R151) -/

/-- The fetch after a record of it has been sent (R150). -/
def FetchState.sentOne (ft : FetchState) : FetchState :=
  { ft with sent := ft.sent + 1, left := ft.left - 1, next := ft.next + 1, timer := 10000
            reading := false }

theorem fetchReadDone_last {s : State} {ft : FetchState} (bytes : List Byte)
    (h : s.arch.fetch = some ft) (hlast : ft.left = 1) :
    fetchReadDone bytes s = endFetch .done ft.sentOne (submitFrame
      (buildFrame 9 ft.requester (recordPayload ft.year ft.kind ft.next bytes)) s) := by
  unfold fetchReadDone
  rw [h]
  dsimp only
  rw [if_pos (by omega)]
  rfl

theorem fetchReadDone_more {s : State} {ft : FetchState} (bytes : List Byte)
    (h : s.arch.fetch = some ft) (hmore : 2 ≤ ft.left) :
    fetchReadDone bytes s = advanceFetch (submitFrame
      (buildFrame 9 ft.requester (recordPayload ft.year ft.kind ft.next bytes))
      { s with arch := { s.arch with fetch := some ft.sentOne } }) := by
  unfold fetchReadDone
  rw [h]
  dsimp only
  rw [if_neg (by omega)]
  rfl

theorem exec_flashReadDone_fetch {s : State} {req : ReadReq} (ha : s.arch.activity = .reading req)
    (hw : req.who = .fetch) (hf : req.addr + req.len ≤ flashSize) :
    exec .flashReadDone s = .next (select (fetchReadDone
      (flashReadBytes s.flash req.addr req.len)
      { s with arch := { s.arch with activity := .idle } })) := by
  rw [exec_flashReadDone ha hf]
  unfold readDone
  rw [hw]

/-- Settles O49: the turns of a fetch, its abandoning, and the end of its read. -/
theorem fetchGoesOnAndEnds : Obligations.FetchGoesOnAndEnds := by
  intro s ft hft
  refine ⟨fun hreading hroom hsection harea hi hr => ?_, fun hreading hroom hend => ?_, ?_,
    fun req frame ha hw hf hframe => ?_⟩
  · exact congrArg Host.Outcome.next
      (advanceFetch_reads ⟨hft, hreading, hsection, harea⟩ hroom hi hr)
  · exact congrArg Host.Outcome.next (advanceFetch_range hft hreading hroom hend)
  · have hexec : exec .fetchAbandon s = .next { s with arch :=
        { s.arch with
          fetch := none
          counts := { s.arch.counts with abandoned := count16 s.arch.counts.abandoned }
          reads := s.arch.reads.map ReadReq.orphan
          activity := s.arch.activity.orphan } } := by
      show execFetchAbandon s = _
      unfold execFetchAbandon
      rw [hft]
    exact ⟨_, hexec, rfl, rfl, rfl, rfl, rfl⟩
  · refine ⟨_, exec_flashReadDone_fetch ha hw hf, ?_, fun hlast => ?_, fun hmore hsection harea => ?_⟩
    · apply State.ext_fields <;> simp
    · rw [select_fetch, select_bus, fetchReadDone_last
        (s := { s with arch := { s.arch with activity := .idle } }) _ hft hlast, hframe]
      exact ⟨rfl, rfl⟩
    · have hready : ft.sentOne.Ready
          { s.arch with activity := .idle, fetch := some ft.sentOne } :=
        ⟨rfl, rfl, hsection, harea⟩
      obtain ⟨hbus, hfetch⟩ := advanceFetch_ready (s := submitFrame frame
        { s with arch := { s.arch with activity := .idle, fetch := some ft.sentOne } }) hready
      rw [select_fetch, select_bus, fetchReadDone_more
        (s := { s with arch := { s.arch with activity := .idle } }) _ hft hmore, ← hframe, hfetch,
        hbus]
      exact ⟨rfl, rfl⟩

end Sys2Proof.Machine
end

section
/-! The bound of the transmit queue (spec/09, R163, R164): submissions and what ends in one, attempts, and
every command and step. -/

namespace Sys2Proof.Machine

/-! ## Submissions (R163, R164) -/

/-- The bound of the transmit queue is a matter of the bus alone. -/
theorem State.transmitOk_congr {s t : State} (h : t.bus = s.bus) : s.transmitOk → t.transmitOk := by
  unfold State.transmitOk; rw [h]; exact id

theorem submitFrame_transmitOk (f : TxFrame) {s : State} (h : s.transmitOk) :
    (submitFrame f s).transmitOk := (submit_spec f s.bus).2 h

theorem answer_transmitOk (kind : Nat) (f : RxFrame) (r : Reply) {s : State} (h : s.transmitOk) :
    (answer kind f r s).transmitOk := submitFrame_transmitOk _ h

/-- A completed interval submits its SUMMARY frame (R96). -/
theorem intervalEnd_transmitOk {s : State} (h : s.transmitOk) : (intervalEnd s).transmitOk := by
  unfold intervalEnd
  split
  · have hsummary (f : TxFrame) : (s.bus.submit f).queue.length ≤ 12 := (submit_spec f s.bus).2 h
    have hclosed (u : State) : (closeHeldDay u).bus = u.bus := by simp
    dsimp only
    split
    · rw [State.transmitOk, hclosed]
      exact hsummary _
    · exact hsummary _
  · exact h

theorem publishMinute_transmitOk (m : MStamp) (st : PlantState) (r : Eight (Option MinuteResult))
    {s : State} (h : s.transmitOk) : (publishMinute m st r s).transmitOk := by
  unfold publishMinute
  dsimp only
  split
  · exact h
  · exact submitFrame_transmitOk _ h

/-! ## The pending minutes (R58, R59, R61, R64) -/

theorem resolveHead_transmitOk {s : State} (h : s.transmitOk) : (resolveHead s).transmitOk := by
  unfold resolveHead
  split
  · exact h
  · dsimp only
    have hevents (l : List (List Byte)) (ex : Exchange) :
        (submitEvents l { s with exch := ex }).transmitOk := State.transmitOk_congr (by simp) h
    split
    · exact intervalEnd_transmitOk (hevents _ _)
    · exact hevents _ _

theorem settleWith_transmitOk (n : Nat) {s : State} (h : s.transmitOk) :
    (settleWith n s).transmitOk := by
  induction n generalizing s with
  | zero => exact h
  | succ n ih =>
    unfold settleWith
    repeat' split
    · exact h
    · exact ih (resolveHead_transmitOk h)
    · exact h

theorem settle_transmitOk {s : State} (h : s.transmitOk) : (settle s).transmitOk :=
  settleWith_transmitOk 3 h

theorem enterMinute_transmitOk (m : MStamp) (st : PlantState) (r : Eight (Option MinuteResult))
    (last : Bool) {s : State} (h : s.transmitOk) : (enterMinute m st r last s).transmitOk := by
  have hforced : (forceHead s).transmitOk := by
    unfold forceHead
    split
    · exact settle_transmitOk (resolveHead_transmitOk h)
    · exact h
  exact settle_transmitOk hforced

theorem closeMinute_transmitOk (m : IStamp) (slot : Nat) (full last : Bool) {s : State}
    (h : s.transmitOk) : (closeMinute m slot full last s).transmitOk :=
  enterMinute_transmitOk _ _ _ _ (publishMinute_transmitOk _ _ _ h)

theorem boundaryMinute_transmitOk (clock : Nat) {s : State} (h : s.transmitOk) :
    (boundaryMinute clock s).transmitOk := by
  unfold boundaryMinute
  repeat' split
  · exact closeMinute_transmitOk _ _ _ _ h
  · exact h
  · exact h

theorem endWithoutMinute_transmitOk (m : IStamp) {s : State} (h : s.transmitOk) :
    (endWithoutMinute m s).transmitOk := by
  unfold endWithoutMinute
  dsimp only
  split
  · exact h
  · exact intervalEnd_transmitOk h

theorem closeLastMinute_transmitOk (m : IStamp) (clock : Nat) {s : State} (h : s.transmitOk) :
    (closeLastMinute m clock s).transmitOk := by
  unfold closeLastMinute
  repeat' split
  · exact endWithoutMinute_transmitOk m h
  · exact closeMinute_transmitOk _ _ _ _ h
  · exact endWithoutMinute_transmitOk m h

/-- The values of a MINUTE frame may complete pending minutes (R57, R59). -/
theorem takeMinute_transmitOk (source : Nat) (m : MinuteMsg) {s : State} (h : s.transmitOk) :
    (takeMinute source m s).transmitOk := by
  have hentry (e : MinuteEntry) {u : State} (hu : u.transmitOk) :
      (takeEntry source m.stamp u e).transmitOk := by
    unfold takeEntry
    split
    · exact settle_transmitOk hu
    · exact hu
  have hentries : (m.entries.foldl (takeEntry source m.stamp) s).transmitOk := by
    generalize m.entries = l
    induction l generalizing s with
    | nil => exact h
    | cons e l ih => exact ih (hentry e h)
  unfold takeMinute
  dsimp only
  split
  · exact settle_transmitOk hentries
  · exact hentries

/-! ## Interval closes (R31, R48, R86) -/

theorem closeInterval_transmitOk (kind : CloseKind) (o : Int) (n : Nat) {s : State}
    (h : s.transmitOk) : (closeInterval kind o n s).transmitOk := by
  have hstart (start : IStamp) (u : State) : (startInterval start u).bus = u.bus := by simp
  unfold closeInterval
  split
  · exact h
  · dsimp only
    split
    · exact State.transmitOk_congr (hstart _ _) (closeLastMinute_transmitOk _ n (by exact h))
    · exact State.transmitOk_congr (by simp) h
    · exact h

theorem actEdge_transmitOk (clock : Nat) {s : State} (h : s.transmitOk) :
    (actEdge clock s).transmitOk := by
  have haccept (kind : CloseKind) : (acceptEdge kind clock s).transmitOk :=
    closeInterval_transmitOk kind _ clock (by exact h)
  unfold actEdge
  repeat' split
  · exact haccept _
  · exact haccept _
  · exact haccept _
  · exact h
  · exact h

/-! ## Fetches (R150, R151) -/

theorem endFetch_transmitOk (r : Reply) (ft : FetchState) {s : State} (h : s.transmitOk) :
    (endFetch r ft s).transmitOk := submitFrame_transmitOk _ h

theorem advanceFetch_transmitOk {s : State} (h : s.transmitOk) : (advanceFetch s).transmitOk := by
  unfold advanceFetch
  repeat' split
  · exact h
  · exact h
  · exact endFetch_transmitOk _ _ h
  · exact endFetch_transmitOk _ _ h
  · exact State.transmitOk_congr (by simp) h

theorem fetchReadDone_transmitOk (bytes : List Byte) {s : State} (h : s.transmitOk) :
    (fetchReadDone bytes s).transmitOk := by
  unfold fetchReadDone
  split
  · exact h
  · dsimp only
    split
    · exact endFetch_transmitOk _ _ (submitFrame_transmitOk _ h)
    · exact advanceFetch_transmitOk (submitFrame_transmitOk _ h)

/-! ## The receive path (R167 to R173) -/

theorem handleFetch_transmitOk (f : RxFrame) {s : State} (h : s.transmitOk) :
    (handleFetch f s).transmitOk := by
  unfold handleFetch
  dsimp only
  split
  · exact advanceFetch_transmitOk h
  · exact answer_transmitOk _ _ _ h

theorem handleCheck_transmitOk (f : RxFrame) {s : State} (h : s.transmitOk) :
    (handleCheck f s).transmitOk :=
  answer_transmitOk _ _ _ (State.transmitOk_congr (by simp) h)

theorem handleDriftReset_transmitOk (f : RxFrame) {s : State} (h : s.transmitOk) :
    (handleDriftReset f s).transmitOk := by
  unfold handleDriftReset
  dsimp only
  split
  · exact answer_transmitOk _ _ _ (State.transmitOk_congr (by simp) h)
  · exact answer_transmitOk _ _ _ h

theorem handleRelease_transmitOk (f : RxFrame) {s : State} (h : s.transmitOk) :
    (handleRelease f s).transmitOk := by
  unfold handleRelease
  dsimp only
  split
  · exact answer_transmitOk _ _ _ h
  · exact answer_transmitOk _ _ _ h

theorem handleRestart_transmitOk (f : RxFrame) {s : State} (h : s.transmitOk) :
    (handleRestart f s).transmitOk := by
  have hreply (g : TxFrame) : (submitFrame g s).transmitOk := submitFrame_transmitOk g h
  unfold handleRestart
  dsimp only
  split <;> exact hreply _

theorem serveRequest_transmitOk (kind : Nat) (f : RxFrame) {s : State} (h : s.transmitOk) :
    (serveRequest kind f s).transmitOk := by
  unfold serveRequest
  split
  · exact handleFetch_transmitOk f h
  · exact handleCheck_transmitOk f h
  · exact handleDriftReset_transmitOk f h
  · exact handleRelease_transmitOk f h
  · exact submitFrame_transmitOk _ h
  · exact handleRestart_transmitOk f h
  · exact h

theorem handleMinute_transmitOk (f : RxFrame) {s : State} (h : s.transmitOk) :
    (handleMinute f s).transmitOk := by
  unfold handleMinute
  repeat' split
  · exact takeMinute_transmitOk _ _ h
  · exact h
  · exact h

theorem dispatch_transmitOk (kind : Nat) (f : RxFrame) {s : State} (h : s.transmitOk) :
    (dispatch kind f s).transmitOk := by
  unfold dispatch dispatchBroadcast handleRequest
  repeat' split
  · exact h
  · exact handleMinute_transmitOk f h
  · exact h
  · exact State.transmitOk_congr (by simp) h
  · exact State.transmitOk_congr (by simp) h
  · exact h
  · exact h
  · exact h
  · exact answer_transmitOk _ _ _ h
  · exact answer_transmitOk _ _ _ h
  · exact answer_transmitOk _ _ _ h
  · exact serveRequest_transmitOk kind f h
  · exact h

/-- A duplicate writes the mark and the counts of the bus (R168). -/
theorem takeDuplicate_bus (kind : Byte) (f : RxFrame) (s : State) :
    (takeDuplicate kind f s).bus = { s.bus with
      duplicate := some 60000
      counts := { s.bus.counts with duplicate := count16 s.bus.counts.duplicate } } := by
  unfold takeDuplicate
  dsimp only
  split <;> rfl

theorem receive_transmitOk (kind : Byte) (f : RxFrame) {s : State} (h : s.transmitOk) :
    (receive kind f s).transmitOk := by
  unfold receive
  repeat' split
  · exact h
  · exact h
  · rw [State.transmitOk, takeDuplicate_bus]; exact h
  · exact dispatch_transmitOk kind.toNat f h

/-! ## Attempts (R161, R162, R165) -/

theorem dropInFlight_length (b : Bus) : b.dropInFlight.queue.length ≤ b.queue.length :=
  List.length_eraseP_le

theorem mapInFlight_length (g : TxFrame → TxFrame) (b : Bus) :
    (b.mapInFlight g).queue.length = b.queue.length := List.length_map _

theorem keepOrWithdraw_length (f : TxFrame) (b : Bus) :
    (b.keepOrWithdraw f).queue.length ≤ b.queue.length := by
  unfold Bus.keepOrWithdraw
  split
  · exact dropInFlight_length b
  · exact (mapInFlight_length _ b).le

theorem fail_length (f : TxFrame) (b : Bus) : (b.fail f).queue.length ≤ b.queue.length := by
  unfold Bus.fail
  dsimp only
  split
  · exact dropInFlight_length _
  · exact (keepOrWithdraw_length _ _).trans (mapInFlight_length _ _).le

theorem withdrawMinute_length (q : List TxFrame) : (withdrawMinute q).length ≤ q.length := by
  induction q with
  | nil => exact le_rfl
  | cons f fs ih =>
    unfold withdrawMinute
    repeat' split
    · exact le_rfl
    · exact Nat.le_succ _
    · exact Nat.succ_le_succ ih

/-- The end of BUS_FAULT leaves the queue (R166). -/
theorem endBusFault_queue (s : State) : (endBusFault s).bus.queue = s.bus.queue := by
  unfold endBusFault
  dsimp only
  split <;> rfl

/-! ## Every command and every step -/

/-- The next state an outcome gives, if it gives one, keeps the bound. -/
def TransmitKept (o : Host.Outcome State Fault Refusal) : Prop := ∀ t, o = .next t → t.transmitOk

namespace TransmitKept

theorem next {t : State} (h : t.transmitOk) : TransmitKept (.next t) := by
  intro u e
  injection e with e
  exact e ▸ h

theorem fault (f : Fault) : TransmitKept (.fault f) := fun _ e => by injection e

/-- The bus of the state before stands in the next state too. -/
theorem same {s t : State} (h : s.transmitOk) (hb : t.bus = s.bus) : TransmitKept (.next t) :=
  next (State.transmitOk_congr hb h)

end TransmitKept

section commands

variable {s : State} (h : s.transmitOk)
include h

/-! ### Resets and loading -/

theorem execResetPeriodEnd_transmit : TransmitKept (execResetPeriodEnd s) := by
  unfold execResetPeriodEnd
  split <;> exact .next h

theorem execEepromReadDone_transmit (ack : Bool) (bytes : List Byte) :
    TransmitKept (execEepromReadDone ack bytes s) := by
  have hrefuse (r : LoadRefusal) (j : Option Joined) : (refuseImage r j s).transmitOk := h
  have hmount (u : State) : (beginMount u).bus = u.bus := by simp
  have hread (len : Nat) {use : State → State} (hu : (use s).transmitOk) :
      (endEepromRead ack bytes len use s).transmitOk := by
    unfold endEepromRead
    repeat' split
    · exact hrefuse ..
    · exact hu
    · exact h
  unfold execEepromReadDone
  split
  · refine .next (hread _ ?_)
    unfold headerRead
    split
    · exact hrefuse ..
    · exact h
  · refine .next (hread _ ?_)
    unfold imageRead
    split
    · exact hrefuse ..
    · rw [State.transmitOk, acceptImage, hmount]
      exact h
  · exact .next h

/-! ### Samples, status inputs and minutes -/

theorem execSampleWord_transmit (w : BitVec 24) : TransmitKept (execSampleWord w s) := by
  unfold execSampleWord
  split
  · cases hcheck : s.underCheck (wordChannel w) with
    | false => rw [takeWord_accumulated _ _ hcheck]; exact .next h
    | true => rw [takeWord_excluded _ _ hcheck]; exact .next h
  · exact .next h

theorem execStatusInputEdge_transmit (i : StatusInput) (level : Bool) :
    TransmitKept (execStatusInputEdge i level s) := by
  unfold execStatusInputEdge filterEdge
  dsimp only
  repeat' split
  all_goals exact .same h (by simp)

theorem execFilterTimerExpiry_transmit (i : StatusInput) :
    TransmitKept (execFilterTimerExpiry i s) := by
  unfold execFilterTimerExpiry
  split
  · exact .same h (by simp)
  · exact .next h

theorem execMinuteBoundary_transmit : TransmitKept (execMinuteBoundary s) := by
  unfold execMinuteBoundary
  repeat' split
  · exact .next (boundaryMinute_transmitOk _ (by exact h))
  · exact .next h
  · exact .next h

theorem execMinuteDeadlineExpiry_transmit (place : Nat) :
    TransmitKept (execMinuteDeadlineExpiry place s) := by
  unfold execMinuteDeadlineExpiry
  repeat' split
  · exact .next (settle_transmitOk (by exact h))
  · exact .next h
  · exact .next h

/-! ### The Mark Unit -/

theorem execOwnExpiry_transmit : TransmitKept (execOwnExpiry s) := by
  unfold execOwnExpiry
  split
  · exact .next (closeInterval_transmitOk _ _ _ h)
  · exact .next h

theorem execLowCheckExpiry_transmit : TransmitKept (execLowCheckExpiry s) := by
  unfold execLowCheckExpiry
  dsimp only
  repeat' split
  · exact .next (actEdge_transmitOk _ (by exact h))
  all_goals exact .next h

theorem execMarkFall_transmit : TransmitKept (execMarkFall s) := by
  unfold execMarkFall
  dsimp only
  repeat' split
  all_goals exact .next h

theorem execMarkRise_transmit : TransmitKept (execMarkRise s) := by
  unfold execMarkRise
  dsimp only
  repeat' split
  all_goals exact .next h

theorem execMarkStuck_transmit : TransmitKept (execMarkStuck s) := by
  unfold execMarkStuck
  split <;> exact .next h

theorem execMarkNormal_transmit : TransmitKept (execMarkNormal s) := by
  unfold execMarkNormal
  split <;> exact .next h

/-! ### Checks -/

theorem execSettleExpiry_transmit : TransmitKept (execSettleExpiry s) := by
  unfold execSettleExpiry
  split <;> exact .next h

theorem execMeasureExpiry_transmit : TransmitKept (execMeasureExpiry s) := by
  unfold execMeasureExpiry
  split
  · exact .same h (by simp)
  · exact .next h

theorem execPurgeTimerExpiry_transmit : TransmitKept (execPurgeTimerExpiry s) := by
  unfold execPurgeTimerExpiry
  repeat' split
  · exact .same h (by simp)
  · exact .next h
  · exact .next h

theorem execPurgeCeiling_transmit : TransmitKept (execPurgeCeiling s) := by
  unfold execPurgeCeiling
  split
  · exact .same h (by simp)
  · exact .next h

/-! ### The receive path and the attempts -/

theorem execBadFrame_transmit (line : List Byte) : TransmitKept (execBadFrame line s) := by
  unfold execBadFrame
  repeat' split
  · exact .next (receive_transmitOk _ _ h)
  · exact .next h
  · exact .next h

theorem execMediumIdle_transmit : TransmitKept (execMediumIdle s) := by
  unfold execMediumIdle
  split
  · exact .next ((startAttempt_length _).trans_le h)
  · exact .next h

theorem execContentionLost_transmit : TransmitKept (execContentionLost s) := by
  unfold execContentionLost
  split
  · exact .next ((keepOrWithdraw_length _ _).trans h)
  · exact .next h

/-- The frame leaves; what the station's own receive path submits keeps the bound, and a RESTART's reset
empties the queue (R162, R169, R173). -/
theorem execAttemptSuccess_transmit : TransmitKept (execAttemptSuccess s) := by
  unfold execAttemptSuccess
  dsimp only
  split
  · exact .next h
  · have hsent : (endBusFault (setBus s.bus.dropInFlight s)).transmitOk := by
      rw [State.transmitOk, endBusFault_queue]
      exact (dropInFlight_length s.bus).trans h
    split
    · exact .next (Nat.zero_le 12)
    · exact .next (dispatch_transmitOk _ _ hsent)

theorem execAttemptFailure_transmit : TransmitKept (execAttemptFailure s) := by
  have hfail (f : TxFrame) : (setBus (s.bus.fail f) s).transmitOk := (fail_length f s.bus).trans h
  unfold execAttemptFailure
  dsimp only
  repeat' split
  · exact .next h
  · exact .next (hfail _)
  · exact .next (hfail _)

theorem execMinuteFrameStale_transmit : TransmitKept (execMinuteFrameStale s) := by
  unfold execMinuteFrameStale
  repeat' split
  · exact .next h
  · exact .next ((withdrawMinute_length _).trans h)
  · exact .next (List.length_eraseP_le.trans h)
  · exact .next h

theorem execRestartTimerExpiry_transmit : TransmitKept (execRestartTimerExpiry s) := by
  unfold execRestartTimerExpiry
  split
  · exact .next (Nat.zero_le 12)
  · exact .next h

/-! ### The flash line -/

theorem readDone_transmitOk (req : ReadReq) : (readDone req s).transmitOk := by
  unfold readDone
  dsimp only
  split
  · exact fetchReadDone_transmitOk _ h
  · exact h
  · exact State.transmitOk_congr (by simp) h
  · exact State.transmitOk_congr (by simp) h
  · exact h

theorem execFlashReadDone_transmit : TransmitKept (execFlashReadDone s) := by
  unfold execFlashReadDone
  repeat' split
  · exact .next h
  · exact .next (readDone_transmitOk
      (s := { s with arch := endRead s.cfg.station.holdoff s.arch }) h _)
  · exact .fault _

theorem execFlashProgramDone_transmit (ok : Bool) : TransmitKept (execFlashProgramDone ok s) := by
  unfold execFlashProgramDone
  repeat' split
  · exact .fault _
  · exact .same h (by simp)
  · exact .same h (by simp)
  · exact .next h

theorem execProgramTimeout_transmit : TransmitKept (execProgramTimeout s) := by
  unfold execProgramTimeout
  repeat' split
  · exact .same h (by simp)
  · exact .fault _
  · exact .next h

theorem execFlashEraseDone_transmit (ok : Bool) : TransmitKept (execFlashEraseDone ok s) := by
  unfold execFlashEraseDone
  repeat' split
  · exact .fault _
  · exact .same h (by simp)
  · exact .same h (by simp)
  · exact .next h

theorem execEraseTimeout_transmit : TransmitKept (execEraseTimeout s) := by
  unfold execEraseTimeout
  repeat' split
  · exact .same h (by simp)
  · exact .fault _
  · exact .next h

theorem execEraseMinRun_transmit : TransmitKept (execEraseMinRun s) := by
  unfold execEraseMinRun
  split <;> exact .next h

theorem execEraseHoldoffExpiry_transmit : TransmitKept (execEraseHoldoffExpiry s) := by
  unfold execEraseHoldoffExpiry
  split <;> exact .next h

theorem execFetchAbandon_transmit : TransmitKept (execFetchAbandon s) := by
  unfold execFetchAbandon
  split <;> exact .next h

theorem exec_transmit (i : Instr) : TransmitKept (exec i s) := by
  cases i with
  | powerUp => exact .next (Nat.zero_le 12)
  | resetPin => exact .next (Nat.zero_le 12)
  | resetPeriodEnd => exact execResetPeriodEnd_transmit h
  | eepromReadDone ack bytes => exact execEepromReadDone_transmit h ack bytes
  | sampleWord w => exact execSampleWord_transmit h w
  | sampleFrameAbort => exact .next h
  | statusInputEdge i level => exact execStatusInputEdge_transmit h i level
  | filterTimerExpiry i => exact execFilterTimerExpiry_transmit h i
  | minuteBoundary => exact execMinuteBoundary_transmit h
  | ownExpiry => exact execOwnExpiry_transmit h
  | markPulseEnd => exact .next h
  | markFall => exact execMarkFall_transmit h
  | markRise => exact execMarkRise_transmit h
  | lowCheckExpiry => exact execLowCheckExpiry_transmit h
  | holdOffExpiry => exact .next h
  | markStuck => exact execMarkStuck_transmit h
  | markNormal => exact execMarkNormal_transmit h
  | timeFrame f => exact .next (receive_transmitOk 3 f h)
  | summaryFrame f => exact .next (receive_transmitOk 2 f h)
  | minuteFrame f => exact .next (receive_transmitOk 1 f h)
  | minuteDeadlineExpiry place => exact execMinuteDeadlineExpiry_transmit h place
  | checkRequest f => exact .next (receive_transmitOk 10 f h)
  | settleExpiry => exact execSettleExpiry_transmit h
  | measureExpiry => exact execMeasureExpiry_transmit h
  | purgeTimerExpiry => exact execPurgeTimerExpiry_transmit h
  | purgeCeiling => exact execPurgeCeiling_transmit h
  | driftReset f => exact .next (receive_transmitOk 11 f h)
  | release f => exact .next (receive_transmitOk 12 f h)
  | fetch f => exact .next (receive_transmitOk 8 f h)
  | status f => exact .next (receive_transmitOk 13 f h)
  | restart f => exact .next (receive_transmitOk 15 f h)
  | unknownKind kind f => exact .next (receive_transmitOk kind f h)
  | badFrame line => exact execBadFrame_transmit h line
  | duplicateStation kind f => exact .next (receive_transmitOk kind f h)
  | frameDisregarded kind f => exact .next (receive_transmitOk kind f h)
  | mediumIdle => exact execMediumIdle_transmit h
  | contentionLost => exact execContentionLost_transmit h
  | attemptSuccess => exact execAttemptSuccess_transmit h
  | attemptFailure => exact execAttemptFailure_transmit h
  | minuteFrameStale => exact execMinuteFrameStale_transmit h
  | duplicateTimerExpiry => exact .next h
  | restartTimerExpiry => exact execRestartTimerExpiry_transmit h
  | flashReadDone => exact execFlashReadDone_transmit h
  | flashProgramDone ok => exact execFlashProgramDone_transmit h ok
  | programTimeout => exact execProgramTimeout_transmit h
  | flashEraseDone ok => exact execFlashEraseDone_transmit h ok
  | eraseTimeout => exact execEraseTimeout_transmit h
  | eraseMinRun => exact execEraseMinRun_transmit h
  | eraseHoldoffExpiry => exact execEraseHoldoffExpiry_transmit h
  | resumeQueueRoom => exact .same h (by simp)
  | fetchNextRead => exact .next (advanceFetch_transmitOk h)
  | fetchAbandon => exact execFetchAbandon_transmit h
  | mediumBusy => exact .next h

/-- A millisecond ages the frames of the queue in their places (R163). -/
theorem idle_transmitOk : (idle s).transmitOk := by
  unfold idle
  split
  · exact (List.length_map TxFrame.tick).trans_le h
  · exact h

theorem step_transmit : TransmitKept (step s) := by
  unfold step
  split
  · exact .next (idle_transmitOk h)
  · rename_i c rest _
    exact exec_transmit (s := { s with pending := rest }) h c

end commands

/-- Settles O4: every command and every millisecond keeps the transmit queue at 12 frames or fewer. -/
theorem transmitQueueBoundKept : Obligations.TransmitQueueBoundKept :=
  fun _ t hs hstep => step_transmit hs t hstep

end Sys2Proof.Machine
end

section
/-! The transmit queue when it is full, stale MINUTE frames, and the attempts that lose contention or fail
(spec/09, R158 to R166). -/

namespace Sys2Proof.Machine

/-! ## Stale MINUTE frames (R165) -/

/-- Settles O58: the first frame of the queue is the oldest MINUTE frame and the one that leaves. -/
theorem staleMinuteIsWithdrawn : Obligations.StaleMinuteIsWithdrawn := by
  intro s f fs hq hk hf
  have holdest : s.bus.oldestMinute = some f := by simp [Bus.oldestMinute, hq, hk]
  have hwaits : (s.bus.queue.any fun g => g.kind == 1 && !g.inFlight) = true := by
    simp [hq, hk, hf]
  have hleaves : (s.bus.queue.eraseP fun g => g.kind == 1 && !g.inFlight) = fs := by
    simp [hq, hk, hf]
  show execMinuteFrameStale s = _
  unfold execMinuteFrameStale
  rw [holdest]
  dsimp only
  rw [if_neg (by simp [hf]), if_pos hwaits, hleaves]
  rfl

/-! ## The full queue (R163, R164) -/

/-- Into a full queue a frame that is not more urgent than the least urgent one waiting is dropped. -/
theorem submit_dropped {b : Bus} {f : TxFrame} (hfull : 12 ≤ b.queue.length)
    (hp : greatestPriority b.queue ≤ f.priority) : b.submit f = b.addDropped := by
  rw [Bus.submit, if_neg (by omega), if_neg (by omega)]

/-- Into a full queue a more urgent frame enters, and the oldest of the least urgent leaves. -/
theorem submit_evicts {b : Bus} {f : TxFrame} (hfull : 12 ≤ b.queue.length)
    (hp : f.priority < greatestPriority b.queue) :
    b.submit f = { b.addDropped with
      queue := insertFrame f (evictFrame (greatestPriority b.queue) b.queue) } := by
  rw [Bus.submit, if_neg (by omega), if_pos hp]

/-- A submission to a full queue counts one dropped frame. -/
theorem submit_full_counts {b : Bus} (f : TxFrame) (hfull : 12 ≤ b.queue.length) :
    (b.submit f).counts = { b.counts with dropped := count16 b.counts.dropped } := by
  rcases Nat.lt_or_ge f.priority (greatestPriority b.queue) with hp | hp
  · rw [submit_evicts hfull hp]; rfl
  · rw [submit_dropped hfull hp]; rfl

/-- The frame in flight is never evicted. -/
theorem mem_evictFrame_inFlight {g : TxFrame} {q : List TxFrame} (priority : Nat)
    (hf : g.inFlight = true) : g ∈ evictFrame priority q ↔ g ∈ q :=
  List.mem_eraseP_of_neg (by simp [hf])

/-- The frame that is evicted, and what stands before and behind it. -/
theorem evictFrame_greatest {q : List TxFrame} (h : 0 < greatestPriority q) :
    ∃ before g after, q = before ++ g :: after ∧ g.inFlight = false ∧
      g.priority = greatestPriority q ∧
      (∀ h ∈ before, h.inFlight = false → h.priority < g.priority) ∧
      evictFrame (greatestPriority q) q = before ++ after := by
  obtain ⟨g', hg', hf', hp'⟩ := greatestPriority_mem h
  obtain ⟨g, before, after, hbefore, hg, hq, herase⟩ :=
    List.exists_of_eraseP (p := fun g => !g.inFlight && g.priority == greatestPriority q) hg'
      (by simp [hf', hp'])
  obtain ⟨hf, hp⟩ : g.inFlight = false ∧ g.priority = greatestPriority q := by simpa using hg
  refine ⟨before, g, after, hq, hf, hp, fun e he hef => ?_, herase⟩
  have hle : e.priority ≤ greatestPriority q := le_greatestPriority (by rw [hq]; simp [he]) hef
  have hne : e.priority ≠ greatestPriority q := by simpa [hef] using hbefore e he
  omega

/-- Settles O59: a full queue drops the frame, or evicts the oldest of the least urgent. -/
theorem fullQueueEvictsTheLeastUrgent : Obligations.FullQueueEvictsTheLeastUrgent := by
  intro b f hlength
  have hfull : 12 ≤ b.queue.length := hlength.ge
  refine ⟨submit_full_counts f hfull, fun g hg hflight => ?_, fun hall => ?_, ?_⟩
  · rcases Nat.lt_or_ge f.priority (greatestPriority b.queue) with hp | hp
    · rw [submit_evicts hfull hp]
      exact (mem_insertFrame ..).mpr (.inr ((mem_evictFrame_inFlight _ hflight).mpr hg))
    · rw [submit_dropped hfull hp]
      exact hg
  · rw [submit_dropped hfull]
    · rfl
    · by_contra hlt
      obtain ⟨g, hg, hf, hp⟩ := greatestPriority_mem (q := b.queue) (by omega)
      have := hall g hg hf
      omega
  · rintro ⟨w, hw, hwf, hwp⟩
    have hp : f.priority < greatestPriority b.queue := hwp.trans_le (le_greatestPriority hw hwf)
    obtain ⟨before, g, after, hq, hf, hgp, hbefore, hevict⟩ :=
      evictFrame_greatest (q := b.queue) (by omega)
    have hqueue : (b.submit f).queue =
        insertFrame f (evictFrame (greatestPriority b.queue) b.queue) := by
      rw [submit_evicts hfull hp]
    have hrest : (before ++ after).length + 1 = 12 := by
      rw [← hlength, hq]
      simp [Nat.add_assoc]
    refine ⟨?_, ?_, hqueue, before, g, after, hq, hf, ?_, fun h hh hhf => ?_, hbefore, ?_⟩
    · rw [hqueue]; exact (mem_insertFrame ..).mpr (.inl rfl)
    · rw [hqueue, insertFrame_length, hevict, hrest]
    · rw [hgp]; exact hp
    · rw [hgp]; exact le_greatestPriority hh hhf
    · rw [hqueue, hevict]

/-! ## The frame in flight (R161, R162, R165) -/

section attempt

variable {b : Bus} {f : TxFrame} {fs : List TxFrame} (hq : b.queue = f :: fs)
  (hf : f.inFlight = true)
include hq hf

theorem inFlight_head : b.inFlight = some f := by simp [Bus.inFlight, hq, hf]

theorem dropInFlight_head : b.dropInFlight = { b with queue := fs } := by
  simp [Bus.dropInFlight, hq, hf]

/-- Only the frame in flight is changed. -/
theorem mapInFlight_head (hfs : ∀ g ∈ fs, g.inFlight = false) (g : TxFrame → TxFrame) :
    b.mapInFlight g = { b with queue := g f :: fs } := by
  have hrest : fs.map (fun e => if e.inFlight then g e else e) = fs :=
    (List.map_congr_left fun e he => if_neg (by simp [hfs e he])).trans (List.map_id fs)
  unfold Bus.mapInFlight
  rw [hq, List.map_cons, hrest, if_pos hf]

/-- A frame that is not stale stays at the head (R161, R162). -/
theorem keepOrWithdraw_fresh (hfs : ∀ g ∈ fs, g.inFlight = false) (h : f.stale = false) :
    b.keepOrWithdraw f = { b with queue := { f with inFlight := false } :: fs } := by
  rw [Bus.keepOrWithdraw, if_neg (by simp [h]), mapInFlight_head hq hf hfs]

/-- A stale MINUTE frame is withdrawn and counted (R165). -/
theorem keepOrWithdraw_stale (h : f.stale = true) : b.keepOrWithdraw f =
    { b with queue := fs, counts := { b.counts with stale := count16 b.counts.stale } } := by
  rw [Bus.keepOrWithdraw, if_pos h, dropInFlight_head hq hf]
  rfl

end attempt

/-- A frame is stale when it is a MINUTE frame of 30,000 ms (R165). -/
theorem stale_iff (f : TxFrame) : f.stale = true ↔ f.kind = 1 ∧ 30000 ≤ f.age := by
  simp [TxFrame.stale]

theorem stale_eq_false_iff (f : TxFrame) : f.stale = false ↔ f.kind ≠ 1 ∨ f.age < 30000 := by
  rw [← Bool.not_eq_true, stale_iff]
  omega

/-! ## The medium (R158, R161) -/

/-- With no frame in flight the medium's fall to idle sends the head. -/
theorem exec_mediumIdle {s : State} {j : Joined} {f : TxFrame} {fs : List TxFrame}
    (hj : s.bus.joined = some j) (hq : s.bus.queue = f :: fs) (hn : s.bus.inFlight = none) :
    exec .mediumIdle s = .next { s with bus :=
      { s.bus with mediumIdle := false, queue := { f with inFlight := true } :: fs } } := by
  show execMediumIdle s = _
  unfold execMediumIdle
  rw [if_pos (by simp [hj, hn])]
  unfold Bus.startAttempt
  dsimp only
  rw [hq]
  rfl

theorem exec_contentionLost {s : State} {f : TxFrame} (hf : s.bus.inFlight = some f) :
    exec .contentionLost s = .next { s with bus := s.bus.keepOrWithdraw f } := by
  show execContentionLost s = _
  unfold execContentionLost
  rw [hf]
  rfl

/-- Settles O55: the frame that lost contention stands as it stood before the medium fell to idle. -/
theorem contentionKeepsTheFrame : Obligations.ContentionKeepsTheFrame := by
  intro s j f fs hj hq hidle hage
  obtain ⟨hf, hfs⟩ := List.forall_mem_cons.mp hidle
  have hnone : s.bus.inFlight = none := by
    rw [Bus.inFlight, hq, List.find?_eq_none]
    simpa using hidle
  obtain ⟨b, hb⟩ : ∃ b : Bus, b =
    { s.bus with mediumIdle := false, queue := { f with inFlight := true } :: fs } := ⟨_, rfl⟩
  have hqueue : b.queue = { f with inFlight := true } :: fs := by rw [hb]
  have hback : b.keepOrWithdraw { f with inFlight := true } =
      { s.bus with mediumIdle := false } := by
    rw [keepOrWithdraw_fresh hqueue rfl hfs ((stale_eq_false_iff _).mpr (.inr hage)), hb, ← hf, ← hq]
  have hlost := exec_contentionLost (s := { s with bus := b }) (inFlight_head hqueue rfl)
  refine ⟨{ s with bus := b }, { s with bus := { s.bus with mediumIdle := false } }, ?_, rfl, hb, ?_,
    rfl, rfl⟩
  · rw [exec_mediumIdle hj hq hnone, hb]
  · rw [hlost, hback]

/-! ## Failed attempts (R162, R165, R166) -/

section failure

variable {b : Bus} {f : TxFrame} {fs : List TxFrame} (hq : b.queue = f :: fs)
  (hf : f.inFlight = true)
include hq hf

/-- The eighth failure of a frame drops it. -/
theorem fail_drops (h : 7 ≤ f.failed) : b.fail f =
    { b with queue := fs, failures := satInc 255 b.failures,
             counts := { b.counts with failed := count16 b.counts.failed } } := by
  have hdrop := dropInFlight_head (b := { b with failures := satInc 255 b.failures }) hq hf
  unfold Bus.fail
  dsimp only
  rw [if_pos h, hdrop]
  rfl

/-- An earlier failure raises the frame's count; the frame is then judged as after any attempt. -/
theorem fail_judges (hfs : ∀ g ∈ fs, g.inFlight = false) (h : f.failed < 7) : b.fail f =
    Bus.keepOrWithdraw { f with failed := f.failed + 1 }
      { b with queue := { f with failed := f.failed + 1 } :: fs,
               failures := satInc 255 b.failures } := by
  have hmap := mapInFlight_head (b := { b with failures := satInc 255 b.failures }) hq hf hfs
  unfold Bus.fail
  dsimp only
  rw [if_neg (by omega), hmap]

theorem fail_keeps (hfs : ∀ g ∈ fs, g.inFlight = false) (h : f.failed < 7)
    (hfresh : f.kind ≠ 1 ∨ f.age < 30000) : b.fail f =
    { b with queue := { f with failed := f.failed + 1, inFlight := false } :: fs,
             failures := satInc 255 b.failures } := by
  rw [fail_judges hq hf hfs h, keepOrWithdraw_fresh (f := { f with failed := f.failed + 1 })
    rfl hf hfs ((stale_eq_false_iff _).mpr hfresh)]

theorem fail_withdraws (hfs : ∀ g ∈ fs, g.inFlight = false) (h : f.failed < 7)
    (hk : f.kind = 1) (hage : 30000 ≤ f.age) : b.fail f =
    { b with queue := fs, failures := satInc 255 b.failures,
             counts := { b.counts with stale := count16 b.counts.stale } } := by
  rw [fail_judges hq hf hfs h, keepOrWithdraw_stale (f := { f with failed := f.failed + 1 })
    rfl hf ((stale_iff _).mpr ⟨hk, hage⟩)]

end failure

/-- A failed attempt raises the failures in a row and leaves the rest of the bus but the queue and the
counts. -/
theorem fail_eq (f : TxFrame) (b : Bus) : b.fail f =
    { b with queue := (b.fail f).queue, counts := (b.fail f).counts,
             failures := satInc 255 b.failures } := by
  unfold Bus.fail Bus.keepOrWithdraw
  dsimp only
  repeat' split
  all_goals rfl

/-- The 32nd failure in a row is BUS_FAULT (R166). -/
theorem exec_attemptFailure {s : State} {f : TxFrame} (hf : s.bus.inFlight = some f)
    (hn : s.bus.failures ≤ 254) :
    ∃ t, exec .attemptFailure s = .next t ∧ t = { s with bus := t.bus, arch := t.arch } ∧
      t.bus = { s.bus.fail f with fault := s.bus.fault || decide (31 ≤ s.bus.failures) } := by
  have henters : (!(s.bus.fail f).fault && decide (32 ≤ (s.bus.fail f).failures)) =
      (!s.bus.fault && decide (31 ≤ s.bus.failures)) := by
    have hraised : satInc 255 s.bus.failures = s.bus.failures + 1 := if_pos (by omega)
    rw [fail_eq]
    simp [hraised]
  show ∃ t, execAttemptFailure s = .next t ∧ _
  unfold execAttemptFailure
  rw [hf]
  dsimp only [setBus]
  rw [henters]
  split
  · rename_i h
    obtain ⟨-, h31⟩ := Bool.and_eq_true_iff.mp h
    refine ⟨_, rfl, rfl, ?_⟩
    rw [h31, Bool.or_true]
    rfl
  · rename_i h
    have hstays : (s.bus.fault || decide (31 ≤ s.bus.failures)) = (s.bus.fail f).fault := by
      rw [fail_eq]
      cases hb : s.bus.fault <;> simp_all
    refine ⟨_, rfl, rfl, ?_⟩
    rw [hstays]

/-- Settles O57: the frame's own count decides its fate, the count in a row BUS_FAULT. -/
theorem failureCountsAndDrops : Obligations.FailureCountsAndDrops := by
  intro s f fs hq hf hfs hn
  obtain ⟨t, hexec, hsame, hbus⟩ := exec_attemptFailure (inFlight_head hq hf) hn
  have hraised : satInc 255 s.bus.failures = s.bus.failures + 1 := if_pos (by omega)
  refine ⟨t, hexec, hsame, ?_, fun h hfresh => ?_, fun h hk hage => ?_, fun h => ?_, fun h => ?_,
    fun h => ?_⟩
  · rw [hbus, fail_eq, ← hraised]
  · rw [hbus, fail_keeps hq hf hfs h hfresh]
    exact ⟨rfl, rfl⟩
  · rw [hbus, fail_withdraws hq hf hfs h hk hage]
    exact ⟨rfl, rfl⟩
  · rw [hbus, fail_drops hq hf h]
    exact ⟨rfl, rfl⟩
  · have hfault : t.bus.fault = true := by rw [hbus]; simp [h]
    exact ⟨hfault, by simp [State.busCause, hfault]⟩
  · rw [hbus]
    simp [Nat.not_le.mpr h]

end Sys2Proof.Machine
end

section
/-! What the receive path makes of broken, duplicate and foreign frames, of RESTART and of STATUS (spec/09,
R167 to R173). -/

namespace Sys2Proof.Machine

/-! ## Broken lines, duplicates and foreign frames (R167 to R170) -/

/-- Settles O54: a broken line only counts, the station's own source only marks a duplicate. -/
theorem brokenAndDuplicateFrames : Obligations.BrokenAndDuplicateFrames := by
  intro s j kind f line hj
  refine ⟨fun hline => ⟨countBad s, ?_, rfl, rfl⟩, fun h0 hs => ?_, rfl⟩
  · show execBadFrame line s = _
    rw [execBadFrame, hline]
    simp [hj]
  · have hbus := takeDuplicate_bus kind f s
    refine ⟨takeDuplicate kind f s, congrArg Host.Outcome.next (receive_own hj h0 hs), ?_, hbus, ?_,
      fun hmarked => ?_⟩
    · apply State.ext_fields <;> simp
    · simp [State.busCause, hbus]
    · unfold takeDuplicate
      dsimp only
      rw [if_pos hmarked]

/-- A frame that is no broadcast and names another station or none is disregarded (R169). -/
theorem dispatch_foreign {kind : Nat} {f : RxFrame} {s : State}
    (hk : kind ≠ 1 ∧ kind ≠ 2 ∧ kind ≠ 3) (hd : f.dest = 0 ∨ f.dest.toNat ≠ s.number) :
    dispatch kind f s = s := by
  by_cases ha : kind = 9 ∨ kind = 14 ∨ kind = 16
  · exact dispatch_answers f s ha
  · rw [dispatch, if_neg (by omega), if_neg ha, if_neg (by tauto)]

/-- An unknown kind that names this station is answered UNKNOWN_KIND (R169, R170). -/
theorem dispatch_unknown {kind : Nat} {f : RxFrame} {s : State}
    (hk : knownKinds.contains kind = false) (hd : f.dest ≠ 0) (hn : f.dest.toNat = s.number) :
    dispatch kind f s = answer kind f .unknownKind s := by
  have hother : kind ≠ 1 ∧ kind ≠ 2 ∧ kind ≠ 3 ∧ kind ≠ 9 ∧ kind ≠ 14 ∧ kind ≠ 16 := by
    simp [knownKinds] at hk
    omega
  rw [dispatch, if_neg (by omega), if_neg (by omega), if_pos ⟨hd, hn⟩, handleRequest,
    if_pos (by rw [hk]; rfl)]

/-- Settles O53, by the tests of R169 and R170 that an unknown kind meets. -/
theorem unknownAndForeignFrames : Obligations.UnknownAndForeignFrames := by
  intro s j kind f hj h0 hs
  have hnumber : s.number = j.number := by simp [State.number, hj]
  have hreceive := receive_dispatch (kind := kind) hj h0 hs
  refine ⟨fun hk hd hn => ⟨answer kind.toNat f .unknownKind s, ?_, rfl, rfl⟩, fun hk => ?_⟩
  · exact congrArg Host.Outcome.next
      (hreceive.trans (dispatch_unknown hk hd (hn.trans hnumber.symm)))
  · refine congrArg Host.Outcome.next (hreceive.trans ?_)
    rcases hk with rfl | rfl | rfl | ⟨h1, h2, h3, hd⟩
    · exact dispatch_answers f s (.inl rfl)
    · exact dispatch_answers f s (.inr (.inl rfl))
    · exact dispatch_answers f s (.inr (.inr rfl))
    · exact dispatch_foreign (by bv_omega) (by rw [hnumber]; exact hd)

/-! ## RESTART (R173, R179, R180) -/

/-- A RESTART's reply joins the queue, and the timer starts unless one runs. -/
theorem handleRestart_bus (f : RxFrame) (s : State) :
    (handleRestart f s).bus =
      { s.bus.submit { buildFrame 16 f.source.toNat (replyPayload 15 .accepted 0 f.payload) with
          restartReply := true } with
        restart := if s.bus.restart.isSome then s.bus.restart else some 1000 } := by
  obtain ⟨g, hg⟩ : ∃ g, g = { buildFrame 16 f.source.toNat (replyPayload 15 .accepted 0 f.payload)
    with restartReply := true } := ⟨_, rfl⟩
  have hrestart : (s.bus.submit g).restart = s.bus.restart := by
    obtain ⟨hsubmit, -⟩ := submit_spec g s.bus
    rw [hsubmit]
  unfold handleRestart
  dsimp only
  rw [← hg]
  simp only [submitFrame_bus, hrestart]
  split
  · rw [← hrestart]; rfl
  · rfl

/-- The reset of a RESTART: every block as after reset, the header to read. -/
theorem restartReset_fields (s : State) :
    (restartReset s).loader = ⟨.loading, .header, none, none, none⟩ ∧
      (restartReset s).bus = Bus.reset ∧ (restartReset s).mark = MarkUnit.reset ∧
      (restartReset s).exch = Exchange.reset ∧ (restartReset s).eng = Engine.reset ∧
      (restartReset s).chk = CheckUnit.reset ∧ (restartReset s).arch = Archive.reset ∧
      (restartReset s).port = SamplePort.reset ∧ (restartReset s).filter = Filter.reset ∧
      (restartReset s).pending = s.pending ∧
      (restartReset s).pins = { s.pins with resetHeld := false } := by
  refine ⟨rfl, rfl, rfl, rfl, rfl, rfl, rfl, rfl, rfl, by simp [restartReset], ?_⟩
  simp [restartReset, beginLoading]

theorem endBusFault_restart (s : State) : (endBusFault s).bus.restart = s.bus.restart := by
  unfold endBusFault
  dsimp only
  split <;> rfl

/-- The success of the REPLY to a RESTART resets the station (R173). -/
theorem exec_attemptSuccess_restart {s : State} {f : TxFrame} {fs : List TxFrame}
    (hq : s.bus.queue = f :: fs) (hf : f.inFlight = true) (hk : f.kind = 16)
    (hreply : f.restartReply = true) (hr : s.bus.restart.isSome = true) :
    exec .attemptSuccess s =
      .next (restartReset (endBusFault (setBus s.bus.dropInFlight s))) := by
  have hpending : (endBusFault (setBus s.bus.dropInFlight s)).bus.restart.isSome = true := by
    rw [endBusFault_restart]; exact hr
  show execAttemptSuccess s = _
  unfold execAttemptSuccess
  rw [inFlight_head hq hf]
  dsimp only
  rw [hk, dispatch_answers _ _ (.inr (.inr rfl)), if_pos (by simp [hreply, hpending])]

/-- Settles O52: both ends of a pending RESTART are its reset. -/
theorem restartResetsInTheEnd : Obligations.RestartResetsInTheEnd := by
  refine ⟨fun s j f hj h0 hs hd hn hl => ?_, fun i s hr hi => ?_⟩
  · have hreceive : receive 15 f s = handleRestart f s :=
      receive_request hj h0 hs hd hn (by decide) (by rw [hl]; rfl) (.inr (.inr rfl))
    refine ⟨handleRestart f s, congrArg Host.Outcome.next hreceive, ?_, ?_⟩
    · apply State.ext_fields <;> simp
    · rw [handleRestart_bus, hl]
  · rcases hi with rfl | ⟨rfl, g, gs, hq, hf, hk, hreply⟩
    · exact ⟨restartReset s, if_pos hr, restartReset_fields s⟩
    · refine ⟨_, exec_attemptSuccess_restart hq hf hk hreply hr, ?_⟩
      simpa [setBus] using restartReset_fields (endBusFault (setBus s.bus.dropInFlight s))

/-! ## STATUS (R172, R196) -/

@[simp] theorem be_length (n x : Nat) : (be n x).length = n := by
  induction n generalizing x with
  | zero => rfl
  | succ n ih => simp [be, ih]

@[simp] theorem signedBe_length (n : Nat) (x : Option Int) : (signedBe n x).length = n := by
  cases x <;> simp [signedBe]

@[simp] theorem istampBe_length (st : Option IStamp) : (istampBe st).length = 5 := by
  cases st <;> simp [istampBe]

@[simp] theorem padTo_length (n : Nat) (bs : List Byte) : (padTo n bs).length = n := by
  simp [padTo]

@[simp] theorem reportStation_length (s : State) : (reportStation s).length = 12 := rfl

@[simp] theorem reportMark_length (s : State) : (reportMark s).length = 13 := by simp [reportMark]

@[simp] theorem reportChannel_length (s : State) (c : Chan) : (reportChannel s c).length = 3 := by
  unfold reportChannel
  dsimp only
  repeat' split
  all_goals rfl

@[simp] theorem reportPlant_length (s : State) : (reportPlant s).length = 7 := by
  unfold reportPlant
  split <;> simp

@[simp] theorem reportCheck_length (s : State) : (reportCheck s).length = 3 := by
  unfold reportCheck
  split <;> rfl

@[simp] theorem reportAreas_length (s : State) : (reportAreas s).length = 12 := by
  unfold reportAreas
  split
  · simp [Areas.toList, allAreas, reportArea]
  · rfl

@[simp] theorem reportErases_length (s : State) : (reportErases s).length = 5 := by
  simp [reportErases]

@[simp] theorem reportArchive_length (s : State) : (reportArchive s).length = 21 := by
  simp [reportArchive]

@[simp] theorem reportCounts_length (s : State) : (reportCounts s).length = 22 := by
  simp [reportCounts]

/-- The parts of the report add up to the 193 bytes of R196. -/
theorem statusPayload_length (s : State) : (statusPayload s).length = 193 := by
  simp [statusPayload, allChans]

/-- Settles O51: STATUS reaches its owner in every station state. -/
theorem statusIsAnswered : Obligations.StatusIsAnswered := by
  intro s j f hj h0 hs hd hn hl
  have hreceive : receive 13 f s = handleStatus f s :=
    receive_request hj h0 hs hd hn (by decide) (by rw [hl]; rfl) (.inr (.inl rfl))
  exact ⟨congrArg Host.Outcome.next hreceive, statusPayload_length s, rfl⟩

end Sys2Proof.Machine
end

section
/-! ALERT (spec/09, R174, R175): the causes as the bits of a byte, under the mask. -/

namespace Sys2Proof.Machine

/-- The seven causes of R174 in the order of their bits. -/
def State.causeList (s : State) : List Bool :=
  [s.eng.exceedance, s.eng.dayExceedance, s.driftCause, s.exch.refLost, s.archiveCause, s.mark.stuck,
    s.busCause]

/-- The cause byte is the list of the causes in bits, the lowest first. -/
theorem causes_eq (s : State) : s.causes = (BitVec.ofBoolListLE s.causeList).toNat := by
  have hnil : (BitVec.ofBoolListLE []).toNat = 0 := rfl
  have hcons (b : Bool) (l : List Bool) : (BitVec.ofBoolListLE (b :: l)).toNat =
      (BitVec.ofBoolListLE l).toNat * 2 + b.toNat := BitVec.toNat_concat ..
  simp only [State.causes, State.causeList, flagBit_eq, hcons, hnil]
  omega

/-- The bits of the cause byte are the causes. -/
theorem causes_bit (s : State) (k : Nat) :
    (BitVec.ofNat 8 s.causes).getLsbD k = s.causeList.getD k false := by
  rw [BitVec.getLsbD_ofNat, causes_eq, BitVec.testBit_toNat, BitVec.getLsbD_ofBoolListLE]
  by_cases hk : k < 8
  · simp [hk]
  · have hlong : s.causeList.length ≤ k := by simp [State.causeList]; omega
    simp [hk, List.getElem?_eq_none hlong]

theorem causeList_getD (s : State) (k : Nat) : s.causeList.getD k false = true ↔
    (k, true) ∈ [(0, s.eng.exceedance), (1, s.eng.dayExceedance), (2, s.driftCause),
      (3, s.exch.refLost), (4, s.archiveCause), (5, s.mark.stuck), (6, s.busCause)] := by
  match k with
  | 0 | 1 | 2 | 3 | 4 | 5 | 6 => simp [State.causeList]
  | k + 7 => simp [State.causeList]

/-- A byte under a mask is not zero exactly when they share a bit. -/
theorem and_ne_zero_iff {w : Nat} (x y : BitVec w) :
    x &&& y ≠ 0 ↔ ∃ k, y.getLsbD k = true ∧ x.getLsbD k = true := by
  constructor
  · contrapose!
    intro h
    apply BitVec.eq_of_getLsbD_eq
    intro k _
    rw [BitVec.getLsbD_and, BitVec.ofNat_eq_ofNat, BitVec.getLsbD_zero]
    cases hy : y.getLsbD k with
    | false => exact Bool.and_false _
    | true => rw [Bool.eq_false_iff.mpr (h k hy), Bool.false_and]
  · rintro ⟨k, hy, hx⟩ h
    have hk := congrArg (fun z => z.getLsbD k) h
    simp [hx, hy] at hk

/-- Settles O60: the causes under the mask, read bit by bit. -/
theorem alertFollowsStateAndMask : Obligations.AlertFollowsStateAndMask := by
  intro s
  refine ⟨rfl, ?_, fun hl hh => ?_⟩
  · rintro (h | h) <;> simp [State.alertActive, h]
  · have hactive : s.alertActive = (BitVec.ofNat 8 s.causes &&& s.cfg.station.mask != 0) := by
      unfold State.alertActive
      split
      · exact absurd ‹_› hl
      · exact absurd ‹_› hh
      · rfl
    rw [hactive, bne_iff_ne, and_ne_zero_iff]
    refine exists_congr fun k => ?_
    rw [causes_bit, causeList_getD]
    simp

end Sys2Proof.Machine
end

section
/-! The moves of the station state along the table of R181 (spec/10): what each part of the station can do of
them, then every command. -/

namespace Sys2Proof.Machine

/-! ## Stays and moves -/

/-- A station state stays or moves along the table. -/
def StationState.Moves (a b : StationState) : Prop := b = a ∨ movesTo a b = true

theorem StationState.Moves.stay (a : StationState) : a.Moves a := .inl rfl

/-- Whatever next state an outcome gives, the station state stays or moves along the table. -/
structure State.Follows (s : State) (o : Host.Outcome State Fault Refusal) : Prop where
  moves : ∀ t, o = .next t → s.loader.station.Moves t.loader.station

namespace State.Follows

theorem next {s t : State} (h : s.loader.station.Moves t.loader.station) : s.Follows (.next t) := by
  refine ⟨fun u e => ?_⟩
  injection e with e
  exact e ▸ h

theorem same {s t : State} (h : t.loader = s.loader) : s.Follows (.next t) :=
  next (.inl (congrArg Loader.station h))

theorem idle (s : State) : s.Follows (.next s) := same rfl

theorem fault (s : State) (f : Fault) : s.Follows (.fault f) :=
  ⟨fun _ e => by injection e⟩

end State.Follows

/-! ## What each part of the station can do of it -/

/-- A refused image halts, an accepted one brings MOUNTING. -/
theorem imageRead_moves {s : State} (head image : List Byte) (hl : s.loader.station = .loading) :
    s.loader.station.Moves (imageRead head image s).loader.station := by
  rw [hl]
  unfold imageRead
  split
  · exact .inr rfl
  · rw [acceptImage_eq]
    exact .inr rfl

theorem headerRead_moves {s : State} (head : List Byte) (hl : s.loader.station = .loading) :
    s.loader.station.Moves (headerRead head s).loader.station := by
  unfold headerRead
  split
  · rw [hl]
    exact .inr rfl
  · exact .stay _

theorem endEepromRead_moves {s : State} (ack : Bool) (bytes : List Byte) (len : Nat)
    {use : State → State} (hl : s.loader.station = .loading)
    (hu : s.loader.station.Moves (use s).loader.station) :
    s.loader.station.Moves (endEepromRead ack bytes len use s).loader.station := by
  unfold endEepromRead
  split
  · rw [hl]
    exact .inr rfl
  · split
    · exact hu
    · exact .stay _

/-- A turn of mount leaves MOUNTING for UNSYNCED alone. -/
theorem MountTurn.moves {s t : State} (h : MountTurn s t) (hm : s.loader.station = .mounting) :
    s.loader.station.Moves t.loader.station := by
  rcases h.outcome with hl | ⟨hl, -⟩
  · rw [hl]
    exact .stay _
  · rw [hm, hl]
    exact .inr rfl

/-- While mount is off a read of mount has no effect. -/
theorem mountReadDone_off (req : ReadReq) {s : State} (h : s.arch.mount = .off) :
    mountReadDone req s = s := by
  unfold mountReadDone
  rw [h]

theorem mountReadDone_moves {s : State} (req : ReadReq) (hs : s.InKeeping) :
    s.loader.station.Moves (mountReadDone req s).loader.station := by
  by_cases hm : s.arch.mount = .off
  · rw [mountReadDone_off req hm]
    exact .stay _
  · exact (mountReadDone_turn req s).moves (hs.mounting hm)

theorem extraClosed_moves {s : State} (a : Area) (hs : s.InKeeping) :
    s.loader.station.Moves (extraClosed a s).loader.station := by
  unfold extraClosed
  split
  · have hm : s.arch.mount ≠ .off := by simp [*]
    exact (closeExtra_turn ..).moves (hs.mounting hm)
  · exact .stay _

theorem extraFailed_moves {s : State} (hs : s.InKeeping) :
    s.loader.station.Moves (extraFailed s).loader.station := by
  unfold extraFailed
  split
  · have hm : s.arch.mount ≠ .off := by simp [*]
    exact (beginSearch_turn _).moves (hs.mounting hm)
  · exact .stay _

/-- Resumption leaves RESUMING for ALIGNING or HALTED. -/
theorem Resumed.station {s t : State} (h : Resumed s t) :
    t.loader.station = s.loader.station ∨ t.loader.station = .aligning ∨
      t.loader.station = .halted := by
  rcases h.outcome with ⟨hl, -⟩ | ⟨hl, -⟩ | ⟨hl, -⟩
  · exact .inl (congrArg Loader.station hl)
  · exact .inr (.inl hl)
  · exact .inr (.inr hl)

theorem Resumed.moves {s t : State} (h : Resumed s t) (hr : s.loader.station = .resuming) :
    s.loader.station.Moves t.loader.station := by
  rcases h.station with hl | hl | hl
  · exact .inl hl
  · rw [hr, hl]
    exact .inr rfl
  · rw [hr, hl]
    exact .inr rfl

/-- While resumption is off a read of resumption has no effect. -/
theorem resumeReadDone_off (bytes : List Byte) {s : State} (h : s.arch.resume = .off) :
    resumeReadDone bytes s = s := by
  unfold resumeReadDone
  rw [h]
  split <;> rfl

theorem resumeReadDone_moves {s : State} (bytes : List Byte) (hs : s.InKeeping) :
    s.loader.station.Moves (resumeReadDone bytes s).loader.station := by
  by_cases hr : s.arch.resume = .off
  · rw [resumeReadDone_off bytes hr]
    exact .stay _
  · exact (resumeReadDone_resumed bytes s).moves (hs.resuming hr)

/-- While resumption is off no late job waits. -/
theorem pump_off {s : State} (h : s.arch.resume = .off) : pump s = s := by
  unfold pump pumpWith
  rw [h]

theorem pump_moves {s : State} (hs : s.InKeeping) :
    s.loader.station.Moves (pump s).loader.station := by
  by_cases hr : s.arch.resume = .off
  · rw [pump_off hr]
    exact .stay _
  · exact (pump_resumed s).moves (hs.resuming hr)

/-- An adoption takes UNSYNCED to RESUMING, or through it where resumption ends at once. -/
theorem adopt_moves {s : State} (stamp : IStamp) (ms : Nat) (hu : s.loader.station = .unsynced) :
    s.loader.station.Moves (adopt stamp ms s).loader.station := by
  rw [hu]
  rcases (adopt_resumed stamp ms s).station with hl | hl | hl
  · rw [hl]
    exact .inr rfl
  · rw [hl]
    exact .inr rfl
  · rw [hl]
    exact .inr rfl

/-- The Mark Unit moves ALIGNING to RECORDING alone. -/
theorem MarkTurn.moves {s t : State} (h : MarkTurn s t) :
    s.loader.station.Moves t.loader.station := by
  rcases h.station with hl | ⟨ha, hr⟩
  · exact .inl hl
  · rw [ha, hr]
    exact .inr rfl

theorem closeInterval_moves (kind : CloseKind) (o : Int) (n : Nat) (s : State) :
    s.loader.station.Moves (closeInterval kind o n s).loader.station :=
  (closeInterval_turn kind o n s).moves

theorem actEdge_moves (clock : Nat) (s : State) :
    s.loader.station.Moves (actEdge clock s).loader.station := by
  have haccept := fun kind m =>
    closeInterval_moves kind (signedOffset clock) clock { s with mark := m }
  unfold actEdge
  repeat' split
  · exact haccept ..
  · exact haccept ..
  · exact haccept ..
  · exact .stay _
  · exact .stay _

/-! ## The receive path (R167 to R170) -/

theorem State.SameStation.moves {s t : State} (h : s.SameStation t) :
    s.loader.station.Moves t.loader.station :=
  .inl (congrArg Loader.station h.loader)

theorem handleTime_moves (f : RxFrame) (s : State) :
    s.loader.station.Moves (handleTime f s).loader.station := by
  unfold handleTime
  dsimp only
  repeat' split
  · exact .stay _
  · exact .stay _
  · exact adopt_moves _ _ ‹_›
  · exact .stay _
  · exact (disagree_same ..).moves
  · exact .stay _

theorem handleSummary_moves (f : RxFrame) (s : State) :
    s.loader.station.Moves (handleSummary f s).loader.station := by
  unfold handleSummary
  dsimp only
  repeat' split
  · exact .stay _
  · exact .stay _
  · exact adopt_moves _ _ ‹_›
  · exact .stay _
  · exact (disagree_same ..).moves
  · exact .stay _

/-- Of the frames only TIME and a peer's SUMMARY can move the station. -/
theorem dispatch_moves (kind : Nat) (f : RxFrame) (s : State) :
    s.loader.station.Moves (dispatch kind f s).loader.station := by
  unfold dispatch dispatchBroadcast
  repeat' split
  · exact .stay _
  · exact (handleMinute_same f s).moves
  · exact .stay _
  · exact handleSummary_moves f s
  · exact handleTime_moves f s
  · exact .stay _
  · exact .stay _
  · exact .stay _
  · exact (handleRequest_same kind f s).moves
  · exact .stay _

theorem receive_follows (kind : Byte) (f : RxFrame) (s : State) :
    s.Follows (.next (receive kind f s)) := by
  refine .next ?_
  unfold receive
  repeat' split
  · exact .stay _
  · exact .stay _
  · exact (takeDuplicate_same kind f s).moves
  · exact dispatch_moves kind.toNat f s

/-! ## Commands that leave the station state -/

theorem execResetPeriodEnd_follows (s : State) : s.Follows (execResetPeriodEnd s) := by
  unfold execResetPeriodEnd
  split
  · exact .next (.stay _)
  · exact .idle s

theorem execSampleWord_follows (w : BitVec 24) (s : State) : s.Follows (execSampleWord w s) := by
  unfold execSampleWord
  split
  · refine .same ?_
    cases hcheck : s.underCheck (wordChannel w) with
    | false => rw [takeWord_accumulated _ _ hcheck]
    | true => rw [takeWord_excluded _ _ hcheck]
  · exact .idle s

theorem execStatusInputEdge_follows (i : StatusInput) (level : Bool) (s : State) :
    s.Follows (execStatusInputEdge i level s) := by
  unfold execStatusInputEdge filterEdge
  dsimp only
  repeat' split
  all_goals exact .same (by simp)

theorem execFilterTimerExpiry_follows (i : StatusInput) (s : State) :
    s.Follows (execFilterTimerExpiry i s) := by
  unfold execFilterTimerExpiry
  split
  · exact .same (by simp)
  · exact .idle s

theorem execMinuteBoundary_follows (s : State) : s.Follows (execMinuteBoundary s) := by
  unfold execMinuteBoundary
  repeat' split
  · exact .same (by simp)
  · exact .idle s
  · exact .idle s

theorem execMinuteDeadlineExpiry_follows (place : Nat) (s : State) :
    s.Follows (execMinuteDeadlineExpiry place s) := by
  unfold execMinuteDeadlineExpiry
  repeat' split
  · exact .same (by simp)
  · exact .idle s
  · exact .idle s

theorem execMarkFall_follows (s : State) : s.Follows (execMarkFall s) := by
  unfold execMarkFall
  dsimp only
  repeat' split
  all_goals exact .same rfl

theorem execMarkRise_follows (s : State) : s.Follows (execMarkRise s) := by
  unfold execMarkRise
  dsimp only
  repeat' split
  all_goals exact .same rfl

theorem execMarkStuck_follows (s : State) : s.Follows (execMarkStuck s) := by
  unfold execMarkStuck
  split
  all_goals exact .same rfl

theorem execMarkNormal_follows (s : State) : s.Follows (execMarkNormal s) := by
  unfold execMarkNormal
  split
  all_goals exact .same rfl

theorem execSettleExpiry_follows (s : State) : s.Follows (execSettleExpiry s) := by
  unfold execSettleExpiry
  split
  all_goals exact .same rfl

theorem execMeasureExpiry_follows (s : State) : s.Follows (execMeasureExpiry s) := by
  unfold execMeasureExpiry
  split
  · exact .same (by simp)
  · exact .idle s

theorem execPurgeTimerExpiry_follows (s : State) : s.Follows (execPurgeTimerExpiry s) := by
  unfold execPurgeTimerExpiry
  repeat' split
  · exact .same (by simp)
  · exact .same rfl
  · exact .idle s

theorem execPurgeCeiling_follows (s : State) : s.Follows (execPurgeCeiling s) := by
  unfold execPurgeCeiling
  split
  · exact .same (by simp)
  · exact .idle s

theorem execMediumIdle_follows (s : State) : s.Follows (execMediumIdle s) := by
  unfold execMediumIdle
  split
  all_goals exact .same rfl

theorem execContentionLost_follows (s : State) : s.Follows (execContentionLost s) := by
  unfold execContentionLost
  split
  all_goals exact .same rfl

theorem execAttemptFailure_follows (s : State) : s.Follows (execAttemptFailure s) := by
  unfold execAttemptFailure
  dsimp only
  repeat' split
  all_goals exact .same rfl

theorem execMinuteFrameStale_follows (s : State) : s.Follows (execMinuteFrameStale s) := by
  unfold execMinuteFrameStale
  repeat' split
  all_goals exact .same rfl

theorem execFlashEraseDone_follows (ok : Bool) (s : State) :
    s.Follows (execFlashEraseDone ok s) := by
  unfold execFlashEraseDone
  repeat' split
  · exact .fault ..
  · exact .same (by simp)
  · exact .same (by simp)
  · exact .idle s

theorem execEraseTimeout_follows (s : State) : s.Follows (execEraseTimeout s) := by
  unfold execEraseTimeout
  repeat' split
  · exact .same (by simp)
  · exact .fault ..
  · exact .idle s

theorem execEraseMinRun_follows (s : State) : s.Follows (execEraseMinRun s) := by
  unfold execEraseMinRun
  split
  all_goals exact .same rfl

theorem execEraseHoldoffExpiry_follows (s : State) : s.Follows (execEraseHoldoffExpiry s) := by
  unfold execEraseHoldoffExpiry
  split
  all_goals exact .same rfl

theorem execFetchNextRead_follows (s : State) : s.Follows (execFetchNextRead s) :=
  .same (by simp)

theorem execFetchAbandon_follows (s : State) : s.Follows (execFetchAbandon s) := by
  unfold execFetchAbandon
  split
  all_goals exact .same rfl

/-! ## Commands that can move the station state -/

/-- A read of the configuration line is taken while LOADING alone. -/
theorem execEepromReadDone_follows {s : State} (ack : Bool) (bytes : List Byte) (hs : s.InKeeping) :
    s.Follows (execEepromReadDone ack bytes s) := by
  have hloading := hs.loading
  unfold execEepromReadDone
  split
  · have hl : s.loader.station = .loading := hloading (by simp [*])
    exact .next (endEepromRead_moves _ _ _ hl (headerRead_moves _ hl))
  · have hl : s.loader.station = .loading := hloading (by simp [*])
    exact .next (endEepromRead_moves _ _ _ hl (imageRead_moves _ _ hl))
  · exact .idle s

theorem execOwnExpiry_follows (s : State) : s.Follows (execOwnExpiry s) := by
  unfold execOwnExpiry
  split
  · exact .next (closeInterval_moves ..)
  · exact .idle s

theorem execLowCheckExpiry_follows (s : State) : s.Follows (execLowCheckExpiry s) := by
  unfold execLowCheckExpiry
  dsimp only
  repeat' split
  · exact .next (actEdge_moves _ { s with mark := { s.mark with lowCheck := none } })
  · exact .same rfl
  · exact .same rfl
  · exact .idle s

theorem execBadFrame_follows (line : List Byte) (s : State) : s.Follows (execBadFrame line s) := by
  unfold execBadFrame
  split
  · exact receive_follows ..
  · split
    all_goals exact .same rfl

theorem readDone_moves {s : State} (req : ReadReq) (hs : s.InKeeping) :
    s.loader.station.Moves (readDone req s).loader.station := by
  unfold readDone
  dsimp only
  split
  · exact .inl (by simp)
  · exact .stay _
  · exact mountReadDone_moves req hs
  · exact resumeReadDone_moves _ hs
  · exact .stay _

theorem execFlashReadDone_follows {s : State} (hs : s.InKeeping) :
    s.Follows (execFlashReadDone s) := by
  unfold execFlashReadDone
  repeat' split
  · exact .idle s
  · have hend : s.SameStation { s with arch := endRead s.cfg.station.holdoff s.arch } := by
      constructor <;> simp [endRead_stage]
    exact .next (readDone_moves _ (hend.keeps.kept hs).1)
  · exact .fault ..

theorem programmed_moves {s : State} (purpose : ProgramFor) (hs : s.InKeeping) :
    s.loader.station.Moves (programmed purpose s).loader.station := by
  unfold programmed
  split
  · exact .stay _
  · exact .stay _
  · exact .stay _
  · exact .stay _
  · exact .stay _
  · exact extraClosed_moves _ hs

theorem programFailed_follows {s : State} (purpose : ProgramFor) (hs : s.InKeeping) :
    s.Follows (.next (programFailed purpose s)) := by
  have hfault : s.SameStation (archiveFault s) := by constructor <;> simp
  refine .next ?_
  unfold programFailed
  split
  · have h := extraFailed_moves (hfault.keeps.kept hs).1
    rw [hfault.loader] at h
    exact h
  · exact (select_archiveFault_same s).moves

theorem execFlashProgramDone_follows {s : State} (ok : Bool) (hs : s.InKeeping) :
    s.Follows (execFlashProgramDone ok s) := by
  unfold execFlashProgramDone
  repeat' split
  · exact .fault ..
  · exact .next (programmed_moves _ ⟨hs.held, hs.loading, hs.mounting, hs.resuming⟩)
  · exact programFailed_follows _ hs
  · exact .idle s

theorem execProgramTimeout_follows {s : State} (hs : s.InKeeping) :
    s.Follows (execProgramTimeout s) := by
  unfold execProgramTimeout
  repeat' split
  · exact programFailed_follows _ hs
  · exact .fault ..
  · exact .idle s

/-! ## Every command -/

theorem exec_follows {i : Instr} {s : State} (hs : s.InKeeping) (hi : bringsReset i = false) :
    s.Follows (exec i s) := by
  cases i with
  | powerUp => nomatch hi
  | resetPin => nomatch hi
  | resetPeriodEnd => exact execResetPeriodEnd_follows s
  | eepromReadDone ack bytes => exact execEepromReadDone_follows ack bytes hs
  | sampleWord w => exact execSampleWord_follows w s
  | sampleFrameAbort => exact .idle s
  | statusInputEdge i level => exact execStatusInputEdge_follows i level s
  | filterTimerExpiry i => exact execFilterTimerExpiry_follows i s
  | minuteBoundary => exact execMinuteBoundary_follows s
  | ownExpiry => exact execOwnExpiry_follows s
  | markPulseEnd => exact .same rfl
  | markFall => exact execMarkFall_follows s
  | markRise => exact execMarkRise_follows s
  | lowCheckExpiry => exact execLowCheckExpiry_follows s
  | holdOffExpiry => exact .same rfl
  | markStuck => exact execMarkStuck_follows s
  | markNormal => exact execMarkNormal_follows s
  | timeFrame f => exact receive_follows 3 f s
  | summaryFrame f => exact receive_follows 2 f s
  | minuteFrame f => exact receive_follows 1 f s
  | minuteDeadlineExpiry place => exact execMinuteDeadlineExpiry_follows place s
  | checkRequest f => exact receive_follows 10 f s
  | settleExpiry => exact execSettleExpiry_follows s
  | measureExpiry => exact execMeasureExpiry_follows s
  | purgeTimerExpiry => exact execPurgeTimerExpiry_follows s
  | purgeCeiling => exact execPurgeCeiling_follows s
  | driftReset f => exact receive_follows 11 f s
  | release f => exact receive_follows 12 f s
  | fetch f => exact receive_follows 8 f s
  | status f => exact receive_follows 13 f s
  | restart f => exact receive_follows 15 f s
  | unknownKind kind f => exact receive_follows kind f s
  | badFrame line => exact execBadFrame_follows line s
  | duplicateStation kind f => exact receive_follows kind f s
  | frameDisregarded kind f => exact receive_follows kind f s
  | mediumIdle => exact execMediumIdle_follows s
  | contentionLost => exact execContentionLost_follows s
  | attemptSuccess => nomatch hi
  | attemptFailure => exact execAttemptFailure_follows s
  | minuteFrameStale => exact execMinuteFrameStale_follows s
  | duplicateTimerExpiry => exact .same rfl
  | restartTimerExpiry => nomatch hi
  | flashReadDone => exact execFlashReadDone_follows hs
  | flashProgramDone ok => exact execFlashProgramDone_follows ok hs
  | programTimeout => exact execProgramTimeout_follows hs
  | flashEraseDone ok => exact execFlashEraseDone_follows ok s
  | eraseTimeout => exact execEraseTimeout_follows s
  | eraseMinRun => exact execEraseMinRun_follows s
  | eraseHoldoffExpiry => exact execEraseHoldoffExpiry_follows s
  | resumeQueueRoom => exact .next (pump_moves hs)
  | fetchNextRead => exact execFetchNextRead_follows s
  | fetchAbandon => exact execFetchAbandon_follows s
  | mediumBusy => exact .same rfl

/-- The success of an attempt resets the station, or the station takes its own frame (R169, R173). -/
theorem execAttemptSuccess_moves {s t : State} (h : execAttemptSuccess s = .next t) :
    t.loader.station = .loading ∨ s.loader.station.Moves t.loader.station := by
  unfold execAttemptSuccess at h
  dsimp only at h
  split at h
  · cases h
    exact .inr (.stay _)
  · rename_i f _
    have hsent : (endBusFault (setBus s.bus.dropInFlight s)).loader = s.loader := by simp
    split at h
    · cases h
      exact .inl rfl
    · cases h
      have hown := fun g => dispatch_moves f.kind g (endBusFault (setBus s.bus.dropInFlight s))
      rw [hsent] at hown
      exact .inr (hown _)

/-- A command that can bring a reset either does, and the station is LOADING, or follows the table. -/
theorem exec_bringsReset_moves {i : Instr} {s t : State} (hi : bringsReset i = true)
    (h : exec i s = .next t) :
    t.loader.station = .loading ∨ s.loader.station.Moves t.loader.station := by
  cases i with
  | powerUp => cases h; exact .inl rfl
  | resetPin => cases h; exact .inl rfl
  | attemptSuccess => exact execAttemptSuccess_moves h
  | restartTimerExpiry =>
    change execRestartTimerExpiry s = .next t at h
    unfold execRestartTimerExpiry at h
    split at h
    · cases h
      exact .inl rfl
    · cases h
      exact .inr (.stay _)
  | _ => nomatch hi

/-- Settles O9: command by command, a reset, a stay or a move of R181's table. -/
theorem stationMovesFollowTheTable : Obligations.StationMovesFollowTheTable := by
  intro i s t hs h
  cases hi : bringsReset i with
  | false => exact ((exec_follows hs hi).moves t h).imp_right .inr
  | true =>
    rcases exec_bringsReset_moves hi h with hl | hm
    · exact .inr (.inl ⟨rfl, hl⟩)
    · exact hm.imp_right .inr

end Sys2Proof.Machine
end

section
/-! The end of the reset period (spec/10, R179, R182, R200) and the read that is not acknowledged (spec/10,
R182, R190). -/

namespace Sys2Proof.Machine

/-! ## The end of the reset period (R179, R182, R200) -/

/-- The configuration line is in use while a read of it is under way. -/
theorem configUsed_eq {s : State} (hp : s.loader.phase ≠ .done) :
    s.configUsed = decide (s.loader.phase ≠ .off) := by
  unfold State.configUsed
  cases hphase : s.loader.phase with
  | off => rfl
  | header => rfl
  | image head => rfl
  | done => exact absurd hphase hp

/-- While LOADING every output but the configuration line stands as in a reset period. -/
theorem outputs_loading {s : State} (hl : s.loader.station = .loading) :
    s.outputs = { PinOutputs.reset with configUsed := s.configUsed } := by
  have hpins : s.loadingPins = true := by rw [State.loadingPins, hl]; rfl
  have hflash : s.flashUsed = false := by rw [State.flashUsed, hpins]; rfl
  have halert : s.alertActive = true := by rw [State.alertActive, hl]
  simp [State.outputs, PinOutputs.reset, hpins, hflash, halert]

/-- Settles O12: the two branches of the command, and the outputs while LOADING. -/
theorem resetPeriodEndBeginsLoading : Obligations.ResetPeriodEndBeginsLoading := by
  intro s
  refine ⟨fun hr => if_pos hr, fun hr => if_neg (by rw [hr]; nofun), fun hl hp => ?_⟩
  rw [outputs_loading hl, configUsed_eq hp]

/-! ## The read that is not acknowledged (R182, R190) -/

/-- In either phase of loading an unacknowledged read is refused at stage READ. -/
theorem exec_eepromReadDone_unacknowledged {s : State} (bytes : List Byte)
    (hp : s.loader.phase = .header ∨ ∃ h, s.loader.phase = .image h) :
    exec (.eepromReadDone false bytes) s = .next (refuseImage ⟨1, 0, 0, 0, 0⟩ none s) := by
  show execEepromReadDone false bytes s = _
  unfold execEepromReadDone
  rcases hp with hp | ⟨head, hp⟩
  · rw [hp]
    rfl
  · rw [hp]
    rfl

/-- Settles O13: the refusal at stage READ halts the station off the bus. -/
theorem unacknowledgedReadHalts : Obligations.UnacknowledgedReadHalts :=
  fun s bytes hp => ⟨refuseImage ⟨1, 0, 0, 0, 0⟩ none s,
    exec_eepromReadDone_unacknowledged bytes hp, rfl, rfl, rfl⟩

end Sys2Proof.Machine
end

section
/-! The queue of waiting commands (logs 1 and 5): a step runs its front command, and no command
touches the others. -/

namespace Sys2Proof.Machine

/-- Settles O1: the front of the queue is the command that `step` matches on. -/
theorem stepRunsFrontCommand : Obligations.StepRunsFrontCommand := fun _ _ _ => rfl

/-- Whatever next state an outcome gives, the waiting commands are those of the state before. -/
def State.LeavesQueue (s : State) (o : Host.Outcome State Fault Refusal) : Prop :=
  ∀ t, o = .next t → t.pending = s.pending

namespace State.LeavesQueue

theorem next {s t : State} (h : t.pending = s.pending) : s.LeavesQueue (.next t) := by
  intro u e
  injection e with e
  exact e ▸ h

theorem idle (s : State) : s.LeavesQueue (.next s) := next rfl

theorem fault (s : State) (f : Fault) : s.LeavesQueue (.fault f) := fun _ e => by injection e

end State.LeavesQueue

/-! ## Resets and loading (R179, R180, R182, R190, R191) -/

theorem holdReset_pending (s : State) : (holdReset s).pending = s.pending :=
  (resetAll_frame s).1

theorem restartReset_pending (s : State) : (restartReset s).pending = s.pending := by
  simp [restartReset_fields]

theorem acceptImage_pending (img : Image) (s : State) :
    (acceptImage img s).pending = s.pending := by
  simp [acceptImage]

theorem headerRead_pending (head : List Byte) (s : State) :
    (headerRead head s).pending = s.pending := by
  unfold headerRead
  split <;> rfl

theorem imageRead_pending (head image : List Byte) (s : State) :
    (imageRead head image s).pending = s.pending := by
  unfold imageRead
  split
  · rfl
  · exact acceptImage_pending _ s

theorem endEepromRead_pending {s : State} {use : State → State} (ack : Bool) (bytes : List Byte)
    (len : Nat) (hu : (use s).pending = s.pending) :
    (endEepromRead ack bytes len use s).pending = s.pending := by
  unfold endEepromRead
  repeat' split
  · rfl
  · exact hu
  · rfl

theorem execResetPeriodEnd_leavesQueue (s : State) : s.LeavesQueue (execResetPeriodEnd s) := by
  unfold execResetPeriodEnd
  split <;> exact .next rfl

theorem execEepromReadDone_leavesQueue (ack : Bool) (bytes : List Byte) (s : State) :
    s.LeavesQueue (execEepromReadDone ack bytes s) := by
  unfold execEepromReadDone
  split
  · exact .next (endEepromRead_pending _ _ _ (headerRead_pending bytes s))
  · exact .next (endEepromRead_pending _ _ _ (imageRead_pending _ bytes s))
  · exact .idle s

/-! ## Samples, status inputs and minutes -/

theorem takeWord_pending (c : Chan) (st code : Nat) (s : State) :
    (takeWord c st code s).pending = s.pending := by
  cases hcheck : s.underCheck c with
  | false => rw [takeWord_accumulated _ _ hcheck]
  | true => rw [takeWord_excluded _ _ hcheck]

theorem filterEdge_pending (i : StatusInput) (level : Bool) (s : State) :
    (filterEdge i level s).pending = s.pending := by
  unfold filterEdge
  repeat' split
  · rfl
  · simp
  · rfl

theorem execSampleWord_leavesQueue (w : BitVec 24) (s : State) :
    s.LeavesQueue (execSampleWord w s) := by
  unfold execSampleWord
  split
  · exact .next (takeWord_pending ..)
  · exact .idle s

theorem execStatusInputEdge_leavesQueue (i : StatusInput) (level : Bool) (s : State) :
    s.LeavesQueue (execStatusInputEdge i level s) := by
  unfold execStatusInputEdge
  dsimp only
  split
  · exact .next (filterEdge_pending ..)
  · exact .next rfl

theorem execFilterTimerExpiry_leavesQueue (i : StatusInput) (s : State) :
    s.LeavesQueue (execFilterTimerExpiry i s) := by
  unfold execFilterTimerExpiry
  split
  · exact .next (by simp)
  · exact .idle s

theorem execMinuteBoundary_leavesQueue (s : State) : s.LeavesQueue (execMinuteBoundary s) := by
  unfold execMinuteBoundary
  repeat' split
  · exact .next (by simp)
  · exact .idle s
  · exact .idle s

theorem execMinuteDeadlineExpiry_leavesQueue (place : Nat) (s : State) :
    s.LeavesQueue (execMinuteDeadlineExpiry place s) := by
  unfold execMinuteDeadlineExpiry
  repeat' split
  · exact .next (by simp)
  · exact .idle s
  · exact .idle s

/-! ## The Mark Unit -/

theorem acceptEdge_pending (kind : CloseKind) (clock : Nat) (s : State) :
    (acceptEdge kind clock s).pending = s.pending := by
  simp [acceptEdge]

theorem actEdge_pending (clock : Nat) (s : State) : (actEdge clock s).pending = s.pending := by
  unfold actEdge
  repeat' split
  · exact acceptEdge_pending ..
  · exact acceptEdge_pending ..
  · exact acceptEdge_pending ..
  · rfl
  · rfl

theorem execOwnExpiry_leavesQueue (s : State) : s.LeavesQueue (execOwnExpiry s) := by
  unfold execOwnExpiry
  split
  · exact .next (by simp)
  · exact .idle s

theorem execLowCheckExpiry_leavesQueue (s : State) : s.LeavesQueue (execLowCheckExpiry s) := by
  unfold execLowCheckExpiry
  dsimp only
  repeat' split
  · exact .next (actEdge_pending ..)
  · exact .next rfl
  · exact .next rfl
  · exact .idle s

theorem execMarkFall_leavesQueue (s : State) : s.LeavesQueue (execMarkFall s) := by
  unfold execMarkFall
  dsimp only
  repeat' split
  all_goals exact .next rfl

theorem execMarkRise_leavesQueue (s : State) : s.LeavesQueue (execMarkRise s) := by
  unfold execMarkRise
  dsimp only
  repeat' split
  all_goals exact .next rfl

theorem execMarkStuck_leavesQueue (s : State) : s.LeavesQueue (execMarkStuck s) := by
  unfold execMarkStuck
  split <;> exact .next rfl

theorem execMarkNormal_leavesQueue (s : State) : s.LeavesQueue (execMarkNormal s) := by
  unfold execMarkNormal
  split <;> exact .next rfl

/-! ## Checks -/

theorem execSettleExpiry_leavesQueue (s : State) : s.LeavesQueue (execSettleExpiry s) := by
  unfold execSettleExpiry
  split <;> exact .next rfl

theorem execMeasureExpiry_leavesQueue (s : State) : s.LeavesQueue (execMeasureExpiry s) := by
  unfold execMeasureExpiry
  split
  · exact .next (by simp)
  · exact .idle s

theorem execPurgeTimerExpiry_leavesQueue (s : State) : s.LeavesQueue (execPurgeTimerExpiry s) := by
  unfold execPurgeTimerExpiry
  repeat' split
  · exact .next (by simp)
  · exact .next rfl
  · exact .idle s

theorem execPurgeCeiling_leavesQueue (s : State) : s.LeavesQueue (execPurgeCeiling s) := by
  unfold execPurgeCeiling
  split
  · exact .next (by simp)
  · exact .idle s

/-! ## The receive path (R167 to R170) -/

theorem serveRequest_pending (kind : Nat) (f : RxFrame) (s : State) :
    (serveRequest kind f s).pending = s.pending := by
  unfold serveRequest
  split
  · simp
  · simp
  · simp
  · simp
  · rfl
  · simp
  · rfl

theorem handleRequest_pending (kind : Nat) (f : RxFrame) (s : State) :
    (handleRequest kind f s).pending = s.pending := by
  unfold handleRequest
  repeat' split
  · exact answer_pending ..
  · exact answer_pending ..
  · exact answer_pending ..
  · exact serveRequest_pending kind f s

theorem handleMinute_pending (f : RxFrame) (s : State) :
    (handleMinute f s).pending = s.pending := by
  unfold handleMinute
  repeat' split
  · simp
  · rfl
  · rfl

theorem dispatchBroadcast_pending (kind : Nat) (f : RxFrame) (s : State) :
    (dispatchBroadcast kind f s).pending = s.pending := by
  unfold dispatchBroadcast
  repeat' split
  · rfl
  · exact handleMinute_pending f s
  · rfl
  · exact (handleSummary_frame f s).1
  · exact (handleTime_frame f s).1
  · rfl
  · rfl

theorem dispatch_pending (kind : Nat) (f : RxFrame) (s : State) :
    (dispatch kind f s).pending = s.pending := by
  unfold dispatch
  repeat' split
  · exact dispatchBroadcast_pending kind f s
  · rfl
  · exact handleRequest_pending kind f s
  · rfl

theorem receive_pending (kind : Byte) (f : RxFrame) (s : State) :
    (receive kind f s).pending = s.pending := by
  unfold receive
  repeat' split
  · rfl
  · rfl
  · exact (takeDuplicate_frame kind f s).1
  · exact dispatch_pending kind.toNat f s

theorem execBadFrame_leavesQueue (line : List Byte) (s : State) :
    s.LeavesQueue (execBadFrame line s) := by
  unfold execBadFrame
  repeat' split
  · exact .next (receive_pending ..)
  · exact .next rfl
  · exact .idle s

/-! ## The medium and the attempts -/

theorem execMediumIdle_leavesQueue (s : State) : s.LeavesQueue (execMediumIdle s) := by
  unfold execMediumIdle
  split <;> exact .next rfl

theorem execContentionLost_leavesQueue (s : State) : s.LeavesQueue (execContentionLost s) := by
  unfold execContentionLost
  split <;> exact .next rfl

/-- Neither the station's own frame nor the reset of a pending RESTART reaches the queue (R169,
R173, R180). -/
theorem execAttemptSuccess_leavesQueue (s : State) : s.LeavesQueue (execAttemptSuccess s) := by
  have hsent : (endBusFault (setBus s.bus.dropInFlight s)).pending = s.pending := by simp
  have htaken := fun k f => (dispatch_pending k f _).trans hsent
  unfold execAttemptSuccess
  dsimp only
  repeat' split
  · exact .idle s
  · exact .next ((restartReset_pending _).trans (htaken ..))
  · exact .next (htaken ..)

theorem execAttemptFailure_leavesQueue (s : State) : s.LeavesQueue (execAttemptFailure s) := by
  unfold execAttemptFailure
  dsimp only
  repeat' split
  all_goals exact .next rfl

theorem execMinuteFrameStale_leavesQueue (s : State) : s.LeavesQueue (execMinuteFrameStale s) := by
  unfold execMinuteFrameStale
  repeat' split
  all_goals exact .next rfl

theorem execRestartTimerExpiry_leavesQueue (s : State) :
    s.LeavesQueue (execRestartTimerExpiry s) := by
  unfold execRestartTimerExpiry
  split
  · exact .next (restartReset_pending s)
  · exact .idle s

/-! ## The flash line -/

theorem readDone_pending (req : ReadReq) (s : State) : (readDone req s).pending = s.pending := by
  unfold readDone
  dsimp only
  split
  · simp
  · rfl
  · simp
  · simp
  · rfl

theorem execFlashReadDone_leavesQueue (s : State) : s.LeavesQueue (execFlashReadDone s) := by
  unfold execFlashReadDone
  repeat' split
  · exact .idle s
  · exact .next (readDone_pending ..)
  · exact .fault s _

theorem execFlashProgramDone_leavesQueue (ok : Bool) (s : State) :
    s.LeavesQueue (execFlashProgramDone ok s) := by
  unfold execFlashProgramDone
  repeat' split
  · exact .fault s _
  · exact .next (by simp)
  · exact .next (by simp)
  · exact .idle s

theorem execProgramTimeout_leavesQueue (s : State) : s.LeavesQueue (execProgramTimeout s) := by
  unfold execProgramTimeout
  repeat' split
  · exact .next (by simp)
  · exact .fault s _
  · exact .idle s

theorem execFlashEraseDone_leavesQueue (ok : Bool) (s : State) :
    s.LeavesQueue (execFlashEraseDone ok s) := by
  unfold execFlashEraseDone
  repeat' split
  · exact .fault s _
  · exact .next (by simp)
  · exact .next (by simp)
  · exact .idle s

theorem execEraseTimeout_leavesQueue (s : State) : s.LeavesQueue (execEraseTimeout s) := by
  unfold execEraseTimeout
  repeat' split
  · exact .next (by simp)
  · exact .fault s _
  · exact .idle s

theorem execEraseMinRun_leavesQueue (s : State) : s.LeavesQueue (execEraseMinRun s) := by
  unfold execEraseMinRun
  split <;> exact .next rfl

theorem execEraseHoldoffExpiry_leavesQueue (s : State) :
    s.LeavesQueue (execEraseHoldoffExpiry s) := by
  unfold execEraseHoldoffExpiry
  split <;> exact .next rfl

theorem execFetchAbandon_leavesQueue (s : State) : s.LeavesQueue (execFetchAbandon s) := by
  unfold execFetchAbandon
  split <;> exact .next rfl

/-! ## Every command -/

theorem exec_leavesQueue (i : Instr) (s : State) : s.LeavesQueue (exec i s) := by
  cases i with
  | powerUp => exact .next (holdReset_pending s)
  | resetPin => exact .next (holdReset_pending s)
  | resetPeriodEnd => exact execResetPeriodEnd_leavesQueue s
  | eepromReadDone ack bytes => exact execEepromReadDone_leavesQueue ack bytes s
  | sampleWord w => exact execSampleWord_leavesQueue w s
  | sampleFrameAbort => exact .idle s
  | statusInputEdge i level => exact execStatusInputEdge_leavesQueue i level s
  | filterTimerExpiry i => exact execFilterTimerExpiry_leavesQueue i s
  | minuteBoundary => exact execMinuteBoundary_leavesQueue s
  | ownExpiry => exact execOwnExpiry_leavesQueue s
  | markPulseEnd => exact .next rfl
  | markFall => exact execMarkFall_leavesQueue s
  | markRise => exact execMarkRise_leavesQueue s
  | lowCheckExpiry => exact execLowCheckExpiry_leavesQueue s
  | holdOffExpiry => exact .next rfl
  | markStuck => exact execMarkStuck_leavesQueue s
  | markNormal => exact execMarkNormal_leavesQueue s
  | timeFrame f => exact .next (receive_pending 3 f s)
  | summaryFrame f => exact .next (receive_pending 2 f s)
  | minuteFrame f => exact .next (receive_pending 1 f s)
  | minuteDeadlineExpiry place => exact execMinuteDeadlineExpiry_leavesQueue place s
  | checkRequest f => exact .next (receive_pending 10 f s)
  | settleExpiry => exact execSettleExpiry_leavesQueue s
  | measureExpiry => exact execMeasureExpiry_leavesQueue s
  | purgeTimerExpiry => exact execPurgeTimerExpiry_leavesQueue s
  | purgeCeiling => exact execPurgeCeiling_leavesQueue s
  | driftReset f => exact .next (receive_pending 11 f s)
  | release f => exact .next (receive_pending 12 f s)
  | fetch f => exact .next (receive_pending 8 f s)
  | status f => exact .next (receive_pending 13 f s)
  | restart f => exact .next (receive_pending 15 f s)
  | unknownKind kind f => exact .next (receive_pending kind f s)
  | badFrame line => exact execBadFrame_leavesQueue line s
  | duplicateStation kind f => exact .next (receive_pending kind f s)
  | frameDisregarded kind f => exact .next (receive_pending kind f s)
  | mediumIdle => exact execMediumIdle_leavesQueue s
  | contentionLost => exact execContentionLost_leavesQueue s
  | attemptSuccess => exact execAttemptSuccess_leavesQueue s
  | attemptFailure => exact execAttemptFailure_leavesQueue s
  | minuteFrameStale => exact execMinuteFrameStale_leavesQueue s
  | duplicateTimerExpiry => exact .next rfl
  | restartTimerExpiry => exact execRestartTimerExpiry_leavesQueue s
  | flashReadDone => exact execFlashReadDone_leavesQueue s
  | flashProgramDone ok => exact execFlashProgramDone_leavesQueue ok s
  | programTimeout => exact execProgramTimeout_leavesQueue s
  | flashEraseDone ok => exact execFlashEraseDone_leavesQueue ok s
  | eraseTimeout => exact execEraseTimeout_leavesQueue s
  | eraseMinRun => exact execEraseMinRun_leavesQueue s
  | eraseHoldoffExpiry => exact execEraseHoldoffExpiry_leavesQueue s
  | resumeQueueRoom => exact .next (pump_frame s).1
  | fetchNextRead => exact .next (advanceFetch_frame s).1
  | fetchAbandon => exact execFetchAbandon_leavesQueue s
  | mediumBusy => exact .next rfl

/-- Settles O2: each command leaves the queue, so its next state has it unchanged. -/
theorem commandsLeaveTheQueue : Obligations.CommandsLeaveTheQueue :=
  fun i s => exec_leavesQueue i s

end Sys2Proof.Machine
end
